-- ==== Sys2Proof/Word.lean ====
section
/-! DEFINITION. The word types of the machine and the widths of rule R5 (spec/00_scope.md): everything is
unsigned (R8), so plain bit vectors carry every register, address and field. -/

namespace Sys2Proof

/-- `bits8`: a general register, a timer, a memory cell, an immediate `kk` (R8, R10). -/
abbrev Byte := BitVec 8

/-- `bits16`: the index register, the program counter, a stack entry, an instruction word (R8, R12, R13). -/
abbrev Word := BitVec 16

/-- A register index: the 4-bit field `x` or `y`. Every value names an existing register (R10). -/
abbrev RegIx := BitVec 4

/-- The index of a key, 0x0 to 0xF (R21, R189). -/
abbrev KeyIx := BitVec 4

/-- The 12-bit address field `nnn` (R62). -/
abbrev Addr12 := BitVec 12

/-- A 4-bit field that is not a register index: the sprite height `n` (R62). -/
abbrev Nibble := BitVec 4

/-- `MEM_SIZE` (R5). -/
abbrev memSize : Nat := 4096

/-- `PROGRAM_BASE` (R5). -/
abbrev programBase : Nat := 0x200

/-- `PROGRAM_MAX` (R5): the bytes from `PROGRAM_BASE` to the end of memory. -/
abbrev programMax : Nat := 3584

/-- `GLYPH_BYTES` (R5): 16 glyphs of 5 bytes from address 0 (R44). -/
abbrev glyphBytes : Nat := 80

/-- The index of the flag register `VF` (R11). -/
abbrev flagIx : RegIx := 0xF#4

end Sys2Proof
end

