-- ==== Sys2Proof/Syntax.lean ====
section
/-! DEFINITION. The abstract syntax: the 34 instructions of rule R66 (spec/30_encoding.md), in the table's order,
each with exactly the operand fields rule R72 lists for it. -/

namespace Sys2Proof

/-- One constructor per row of spec/opcode_table.json. The operand types have the widths of rule R62, so every
term is an instruction the hardware has (R10: every index a field can name exists). -/
inductive Instr where
  /-- clear-screen, 00E0 (R140). -/
  | clearScreen
  /-- return, 00EE (R90). -/
  | ret
  /-- jump nnn, 1nnn (R91). -/
  | jump (nnn : Addr12)
  /-- call nnn, 2nnn (R92). -/
  | call (nnn : Addr12)
  /-- skip-eq-imm x, kk, 3xkk (R93). -/
  | skipEqImm (x : RegIx) (kk : Byte)
  /-- skip-ne-imm x, kk, 4xkk (R94). -/
  | skipNeImm (x : RegIx) (kk : Byte)
  /-- skip-eq-reg x, y, 5xy_ with the low nibble ignored (R95, R68). -/
  | skipEqReg (x y : RegIx)
  /-- load-imm x, kk, 6xkk (R110). -/
  | loadImm (x : RegIx) (kk : Byte)
  /-- add-imm x, kk, 7xkk (R111). -/
  | addImm (x : RegIx) (kk : Byte)
  /-- move x, y, 8xy0 (R113). -/
  | move (x y : RegIx)
  /-- or x, y, 8xy1 (R114). -/
  | or (x y : RegIx)
  /-- and x, y, 8xy2 (R115). -/
  | and (x y : RegIx)
  /-- xor x, y, 8xy3 (R116). -/
  | xor (x y : RegIx)
  /-- add-with-carry x, y, 8xy4 (R117). -/
  | addCarry (x y : RegIx)
  /-- subtract-with-not-borrow x, y, 8xy5 (R118). -/
  | subNotBorrow (x y : RegIx)
  /-- shift-right x, y, 8xy6 (R119). -/
  | shiftRight (x y : RegIx)
  /-- subtract-reversed-with-not-borrow x, y, 8xy7 (R120). -/
  | subRevNotBorrow (x y : RegIx)
  /-- shift-left x, y, 8xyE (R121). -/
  | shiftLeft (x y : RegIx)
  /-- skip-ne-reg x, y, 9xy_ with the low nibble ignored (R96, R68). -/
  | skipNeReg (x y : RegIx)
  /-- load-index nnn, Annn (R122). -/
  | loadIndex (nnn : Addr12)
  /-- jump-offset nnn, Bnnn (R97). -/
  | jumpOffset (nnn : Addr12)
  /-- rand-mask x, kk, Cxkk (R124). -/
  | randMask (x : RegIx) (kk : Byte)
  /-- draw x, y, n, Dxyn (R141). -/
  | draw (x y : RegIx) (n : Nibble)
  /-- skip-key-pressed x, Ex9E (R150). -/
  | skipKeyPressed (x : RegIx)
  /-- skip-key-not-pressed x, ExA1 (R151). -/
  | skipKeyNotPressed (x : RegIx)
  /-- read-delay x, Fx07 (R152). -/
  | readDelay (x : RegIx)
  /-- wait-key x, Fx0A (R153). -/
  | waitKey (x : RegIx)
  /-- set-delay x, Fx15 (R155). -/
  | setDelay (x : RegIx)
  /-- set-sound x, Fx18 (R156). -/
  | setSound (x : RegIx)
  /-- add-index x, Fx1E (R123). -/
  | addIndex (x : RegIx)
  /-- glyph-address x, Fx29 (R143). -/
  | glyphAddress (x : RegIx)
  /-- store-bcd x, Fx33 (R160). -/
  | storeBcd (x : RegIx)
  /-- reg-dump x, Fx55 (R161). -/
  | regDump (x : RegIx)
  /-- reg-load x, Fx65 (R162). -/
  | regLoad (x : RegIx)
  deriving DecidableEq, Repr

end Sys2Proof
end

