-- ==== Sys2Proof/WellFormed.lean ====
section
/-! DEFINITION. Well-formed instruction text (rule R72, spec/30_encoding.md). An `Instr` carries its operands at the
exact widths of rule R62, so every `Instr` is well formed and there is nothing to check of one; what can be ill
formed is an instruction as it is WRITTEN, a mnemonic with numbers, and that is what `AsmLine.wf` checks. -/

namespace Sys2Proof

/-- The 34 mnemonics of rule R66, in the table's order. -/
inductive Mnemonic where
  | clearScreen | ret | jump | call | skipEqImm | skipNeImm | skipEqReg | loadImm | addImm
  | move | or | and | xor | addCarry | subNotBorrow | shiftRight | subRevNotBorrow | shiftLeft
  | skipNeReg | loadIndex | jumpOffset | randMask | draw | skipKeyPressed | skipKeyNotPressed
  | readDelay | waitKey | setDelay | setSound | addIndex | glyphAddress | storeBcd | regDump | regLoad
  deriving DecidableEq, Repr

/-- The six formats of rule R64. -/
inductive Format where
  /-- `Z`: no operand. -/
  | z
  /-- `A`: an address `nnn`. -/
  | a
  /-- `I`: a register and an immediate `kk`. -/
  | i
  /-- `R`: two registers, the low nibble a selector or ignored. -/
  | r
  /-- `D`: two registers and a height `n`. -/
  | d
  /-- `X`: one register, the low byte a selector. -/
  | x
  deriving DecidableEq, Repr

/-- The mnemonic of an instruction. -/
def Instr.mnemonic : Instr → Mnemonic
  | .clearScreen => .clearScreen
  | .ret => .ret
  | .jump _ => .jump
  | .call _ => .call
  | .skipEqImm _ _ => .skipEqImm
  | .skipNeImm _ _ => .skipNeImm
  | .skipEqReg _ _ => .skipEqReg
  | .loadImm _ _ => .loadImm
  | .addImm _ _ => .addImm
  | .move _ _ => .move
  | .or _ _ => .or
  | .and _ _ => .and
  | .xor _ _ => .xor
  | .addCarry _ _ => .addCarry
  | .subNotBorrow _ _ => .subNotBorrow
  | .shiftRight _ _ => .shiftRight
  | .subRevNotBorrow _ _ => .subRevNotBorrow
  | .shiftLeft _ _ => .shiftLeft
  | .skipNeReg _ _ => .skipNeReg
  | .loadIndex _ => .loadIndex
  | .jumpOffset _ => .jumpOffset
  | .randMask _ _ => .randMask
  | .draw _ _ _ => .draw
  | .skipKeyPressed _ => .skipKeyPressed
  | .skipKeyNotPressed _ => .skipKeyNotPressed
  | .readDelay _ => .readDelay
  | .waitKey _ => .waitKey
  | .setDelay _ => .setDelay
  | .setSound _ => .setSound
  | .addIndex _ => .addIndex
  | .glyphAddress _ => .glyphAddress
  | .storeBcd _ => .storeBcd
  | .regDump _ => .regDump
  | .regLoad _ => .regLoad

/-- The mnemonic's spelling in the table of rule R66. -/
def Mnemonic.name : Mnemonic → String
  | .clearScreen => "clear-screen"
  | .ret => "return"
  | .jump => "jump"
  | .call => "call"
  | .skipEqImm => "skip-eq-imm"
  | .skipNeImm => "skip-ne-imm"
  | .skipEqReg => "skip-eq-reg"
  | .loadImm => "load-imm"
  | .addImm => "add-imm"
  | .move => "move"
  | .or => "or"
  | .and => "and"
  | .xor => "xor"
  | .addCarry => "add-with-carry"
  | .subNotBorrow => "subtract-with-not-borrow"
  | .shiftRight => "shift-right"
  | .subRevNotBorrow => "subtract-reversed-with-not-borrow"
  | .shiftLeft => "shift-left"
  | .skipNeReg => "skip-ne-reg"
  | .loadIndex => "load-index"
  | .jumpOffset => "jump-offset"
  | .randMask => "rand-mask"
  | .draw => "draw"
  | .skipKeyPressed => "skip-key-pressed"
  | .skipKeyNotPressed => "skip-key-not-pressed"
  | .readDelay => "read-delay"
  | .waitKey => "wait-key"
  | .setDelay => "set-delay"
  | .setSound => "set-sound"
  | .addIndex => "add-index"
  | .glyphAddress => "glyph-address"
  | .storeBcd => "store-bcd"
  | .regDump => "reg-dump"
  | .regLoad => "reg-load"

/-- The format column of rule R66. -/
def Mnemonic.format : Mnemonic → Format
  | .clearScreen | .ret => .z
  | .jump | .call | .loadIndex | .jumpOffset => .a
  | .skipEqImm | .skipNeImm | .loadImm | .addImm | .randMask => .i
  | .skipEqReg | .skipNeReg | .move | .or | .and | .xor | .addCarry | .subNotBorrow | .shiftRight
  | .subRevNotBorrow | .shiftLeft => .r
  | .draw => .d
  | .skipKeyPressed | .skipKeyNotPressed | .readDelay | .waitKey | .setDelay | .setSound | .addIndex
  | .glyphAddress | .storeBcd | .regDump | .regLoad => .x

/-- The two mnemonics whose low nibble is not examined (R68). -/
def Mnemonic.lowNibbleIgnored : Mnemonic → Bool
  | .skipEqReg | .skipNeReg => true
  | .clearScreen | .ret | .jump | .call | .skipEqImm | .skipNeImm | .loadImm | .addImm
  | .move | .or | .and | .xor | .addCarry | .subNotBorrow | .shiftRight | .subRevNotBorrow | .shiftLeft
  | .loadIndex | .jumpOffset | .randMask | .draw | .skipKeyPressed | .skipKeyNotPressed
  | .readDelay | .waitKey | .setDelay | .setSound | .addIndex | .glyphAddress | .storeBcd | .regDump
  | .regLoad => false

/-- An instruction as it is written: its mnemonic and its operands, plain numbers (R72). -/
structure AsmLine where
  mnemonic : Mnemonic
  operands : List Nat
  deriving DecidableEq, Repr

/-- The operands are the ones rule R72 lists for the mnemonic, and each fits its field (R62): a register index or a
nibble below 16, an immediate below 256, an address below 4096. The third operand of the two register skips is the
low nibble the assembler may be given. -/
def AsmLine.wf (l : AsmLine) : Bool :=
  match l.mnemonic.format, l.operands with
  | .z, [] => true
  | .a, [nnn] => nnn < 4096
  | .i, [x, kk] => x < 16 && kk < 256
  | .r, [x, y] => x < 16 && y < 16
  | .r, [x, y, n] => l.mnemonic.lowNibbleIgnored && x < 16 && y < 16 && n < 16
  | .d, [x, y, n] => x < 16 && y < 16 && n < 16
  | .x, [x] => x < 16
  | _, _ => false

end Sys2Proof
end

