-- ==== Sys2Proof/Decode.lean ====
section
/-! DEFINITION. The decoder (rule R65, spec/30_encoding.md), total on any bytes; then the encoder, the opcode map's
masks (R66) and the assembler (R72). The selector values are those of rule R61: the ones it marks as general
knowledge are PRESUMED, unsafe (log entry 22). -/

namespace Sys2Proof

/-- What `Decode` answers: one operation with its operand fields, or `Unrecognized` (R65). -/
inductive Decoded where
  | op (i : Instr)
  | unrecognized
  deriving DecidableEq, Repr

/-- Group selector `g = w[15:12]` (R62). -/
def fieldG (w : Word) : BitVec 4 := w.extractLsb' 12 4

/-- First register index `x = w[11:8]` (R62). -/
def fieldX (w : Word) : RegIx := w.extractLsb' 8 4

/-- Second register index `y = w[7:4]` (R62). -/
def fieldY (w : Word) : RegIx := w.extractLsb' 4 4

/-- Low nibble `n = w[3:0]` (R62). -/
def fieldN (w : Word) : Nibble := w.extractLsb' 0 4

/-- Immediate byte `kk = w[7:0]` (R62). -/
def fieldKK (w : Word) : Byte := w.extractLsb' 0 8

/-- Address `nnn = w[11:0]` (R62). -/
def fieldNNN (w : Word) : Addr12 := w.extractLsb' 0 12

/-- Group 0: matched on all 16 bits (R65, R67; D23, log entry 20). -/
def decodeGroup0 (w : Word) : Decoded :=
  if w = 0x00E0#16 then .op .clearScreen
  else if w = 0x00EE#16 then .op .ret
  else .unrecognized

/-- Group 8: the low nibble selects the operation (R65). -/
def decodeGroup8 (x y : RegIx) (n : Nibble) : Decoded :=
  match n.toNat with
  | 0x0 => .op (.move x y)
  | 0x1 => .op (.or x y)
  | 0x2 => .op (.and x y)
  | 0x3 => .op (.xor x y)
  | 0x4 => .op (.addCarry x y)
  | 0x5 => .op (.subNotBorrow x y)
  | 0x6 => .op (.shiftRight x y)
  | 0x7 => .op (.subRevNotBorrow x y)
  | 0xE => .op (.shiftLeft x y)
  | _ => .unrecognized

/-- Group E: the whole low byte selects (R65; D34, log entry 20). -/
def decodeGroupE (x : RegIx) (kk : Byte) : Decoded :=
  match kk.toNat with
  | 0x9E => .op (.skipKeyPressed x)
  | 0xA1 => .op (.skipKeyNotPressed x)
  | _ => .unrecognized

/-- Group F: the whole low byte selects (R65; D34, log entry 20). -/
def decodeGroupF (x : RegIx) (kk : Byte) : Decoded :=
  match kk.toNat with
  | 0x07 => .op (.readDelay x)
  | 0x0A => .op (.waitKey x)
  | 0x15 => .op (.setDelay x)
  | 0x18 => .op (.setSound x)
  | 0x1E => .op (.addIndex x)
  | 0x29 => .op (.glyphAddress x)
  | 0x33 => .op (.storeBcd x)
  | 0x55 => .op (.regDump x)
  | 0x65 => .op (.regLoad x)
  | _ => .unrecognized

/-- `Decode(w)` (R65): total and pure. The low nibble of groups 5 and 9 is not examined (R68). -/
def decode (w : Word) : Decoded :=
  let x := fieldX w
  let y := fieldY w
  match (fieldG w).toNat with
  | 0x0 => decodeGroup0 w
  | 0x1 => .op (.jump (fieldNNN w))
  | 0x2 => .op (.call (fieldNNN w))
  | 0x3 => .op (.skipEqImm x (fieldKK w))
  | 0x4 => .op (.skipNeImm x (fieldKK w))
  | 0x5 => .op (.skipEqReg x y)
  | 0x6 => .op (.loadImm x (fieldKK w))
  | 0x7 => .op (.addImm x (fieldKK w))
  | 0x8 => decodeGroup8 x y (fieldN w)
  | 0x9 => .op (.skipNeReg x y)
  | 0xA => .op (.loadIndex (fieldNNN w))
  | 0xB => .op (.jumpOffset (fieldNNN w))
  | 0xC => .op (.randMask x (fieldKK w))
  | 0xD => .op (.draw x y (fieldN w))
  | 0xE => decodeGroupE x (fieldKK w)
  | _ => decodeGroupF x (fieldKK w)

/-- The word of two consecutive bytes, the byte at the lower address first: it is the high byte (R42). -/
def wordOfBytes (first second : Byte) : Word := first ++ second

/-- The byte of a word that lies at the lower address (R42). -/
def highByte (w : Word) : Byte := w.extractLsb' 8 8

/-- The byte of a word that lies at the higher address (R42). -/
def lowByte (w : Word) : Byte := w.extractLsb' 0 8

/-- Why no instruction could be read from a list of bytes. -/
inductive DecodeError where
  /-- Fewer than two bytes: an instruction is always two bytes (R60). The fetch never meets this. -/
  | truncated
  /-- The word matches no row of the opcode map (R67). -/
  | unrecognized (w : Word)
  deriving DecidableEq, Repr

/-- The instruction at the head of a list of bytes, and the bytes after it. -/
inductive BytesDecoded where
  | op (i : Instr) (rest : List Byte)
  | error (e : DecodeError)
  deriving DecidableEq, Repr

/-- Decoding any list of bytes: every instruction is two bytes, high byte first (R60, R42). -/
def decodeBytes : List Byte → BytesDecoded
  | b0 :: b1 :: rest =>
    match decode (wordOfBytes b0 b1) with
    | .op i => .op i rest
    | .unrecognized => .error (.unrecognized (wordOfBytes b0 b1))
  | [_] => .error .truncated
  | [] => .error .truncated

/-- Format `A`: group and address (R64). -/
def encodeA (g : BitVec 4) (nnn : Addr12) : Word := g ++ nnn

/-- Format `I`, and format `X` with a selector byte: group, register, byte (R64). -/
def encodeI (g : BitVec 4) (x : RegIx) (kk : Byte) : Word := g ++ x ++ kk

/-- Formats `R` and `D`: group, two registers, nibble (R64). -/
def encodeR (g : BitVec 4) (x y : RegIx) (n : Nibble) : Word := g ++ x ++ y ++ n

/-- The word of an instruction (R64, R66). The ignored nibble of groups 5 and 9 is 0, as the assembler writes it
when it is given none (R72). -/
def encode : Instr → Word
  | .clearScreen => 0x00E0#16
  | .ret => 0x00EE#16
  | .jump nnn => encodeA 0x1#4 nnn
  | .call nnn => encodeA 0x2#4 nnn
  | .skipEqImm x kk => encodeI 0x3#4 x kk
  | .skipNeImm x kk => encodeI 0x4#4 x kk
  | .skipEqReg x y => encodeR 0x5#4 x y 0x0#4
  | .loadImm x kk => encodeI 0x6#4 x kk
  | .addImm x kk => encodeI 0x7#4 x kk
  | .move x y => encodeR 0x8#4 x y 0x0#4
  | .or x y => encodeR 0x8#4 x y 0x1#4
  | .and x y => encodeR 0x8#4 x y 0x2#4
  | .xor x y => encodeR 0x8#4 x y 0x3#4
  | .addCarry x y => encodeR 0x8#4 x y 0x4#4
  | .subNotBorrow x y => encodeR 0x8#4 x y 0x5#4
  | .shiftRight x y => encodeR 0x8#4 x y 0x6#4
  | .subRevNotBorrow x y => encodeR 0x8#4 x y 0x7#4
  | .shiftLeft x y => encodeR 0x8#4 x y 0xE#4
  | .skipNeReg x y => encodeR 0x9#4 x y 0x0#4
  | .loadIndex nnn => encodeA 0xA#4 nnn
  | .jumpOffset nnn => encodeA 0xB#4 nnn
  | .randMask x kk => encodeI 0xC#4 x kk
  | .draw x y n => encodeR 0xD#4 x y n
  | .skipKeyPressed x => encodeI 0xE#4 x 0x9E#8
  | .skipKeyNotPressed x => encodeI 0xE#4 x 0xA1#8
  | .readDelay x => encodeI 0xF#4 x 0x07#8
  | .waitKey x => encodeI 0xF#4 x 0x0A#8
  | .setDelay x => encodeI 0xF#4 x 0x15#8
  | .setSound x => encodeI 0xF#4 x 0x18#8
  | .addIndex x => encodeI 0xF#4 x 0x1E#8
  | .glyphAddress x => encodeI 0xF#4 x 0x29#8
  | .storeBcd x => encodeI 0xF#4 x 0x33#8
  | .regDump x => encodeI 0xF#4 x 0x55#8
  | .regLoad x => encodeI 0xF#4 x 0x65#8

/-- The match column of rule R66. -/
def Mnemonic.pattern : Mnemonic → Word
  | .clearScreen => 0x00E0#16
  | .ret => 0x00EE#16
  | .jump => 0x1000#16
  | .call => 0x2000#16
  | .skipEqImm => 0x3000#16
  | .skipNeImm => 0x4000#16
  | .skipEqReg => 0x5000#16
  | .loadImm => 0x6000#16
  | .addImm => 0x7000#16
  | .move => 0x8000#16
  | .or => 0x8001#16
  | .and => 0x8002#16
  | .xor => 0x8003#16
  | .addCarry => 0x8004#16
  | .subNotBorrow => 0x8005#16
  | .shiftRight => 0x8006#16
  | .subRevNotBorrow => 0x8007#16
  | .shiftLeft => 0x800E#16
  | .skipNeReg => 0x9000#16
  | .loadIndex => 0xA000#16
  | .jumpOffset => 0xB000#16
  | .randMask => 0xC000#16
  | .draw => 0xD000#16
  | .skipKeyPressed => 0xE09E#16
  | .skipKeyNotPressed => 0xE0A1#16
  | .readDelay => 0xF007#16
  | .waitKey => 0xF00A#16
  | .setDelay => 0xF015#16
  | .setSound => 0xF018#16
  | .addIndex => 0xF01E#16
  | .glyphAddress => 0xF029#16
  | .storeBcd => 0xF033#16
  | .regDump => 0xF055#16
  | .regLoad => 0xF065#16

/-- The mask column of rule R66. -/
def Mnemonic.mask : Mnemonic → Word
  | .clearScreen | .ret => 0xFFFF#16
  | .move | .or | .and | .xor | .addCarry | .subNotBorrow | .shiftRight | .subRevNotBorrow | .shiftLeft => 0xF00F#16
  | .skipKeyPressed | .skipKeyNotPressed | .readDelay | .waitKey | .setDelay | .setSound | .addIndex
  | .glyphAddress | .storeBcd | .regDump | .regLoad => 0xF0FF#16
  | .jump | .call | .skipEqImm | .skipNeImm | .skipEqReg | .loadImm | .addImm | .skipNeReg | .loadIndex
  | .jumpOffset | .randMask | .draw => 0xF000#16

/-- The operand fields of a written instruction at their places in the word (R62, R72). -/
def AsmLine.fieldBits (l : AsmLine) : Word :=
  match l.mnemonic.format, l.operands with
  | .a, [nnn] => BitVec.ofNat 16 nnn
  | .i, [x, kk] => BitVec.ofNat 16 (x * 256 + kk)
  | .r, [x, y] => BitVec.ofNat 16 (x * 256 + y * 16)
  | .r, [x, y, n] => BitVec.ofNat 16 (x * 256 + y * 16 + n)
  | .d, [x, y, n] => BitVec.ofNat 16 (x * 256 + y * 16 + n)
  | .x, [x] => BitVec.ofNat 16 (x * 256)
  | _, _ => 0#16

/-- The assembler (R72): "match OR the fields placed by rule R62" for well-formed text, nothing for ill-formed. -/
def assemble (l : AsmLine) : Option Word :=
  if l.wf then some (l.mnemonic.pattern ||| l.fieldBits) else none

/-- An instruction as it is written (R72): its operands in the order of the table, the ignored nibble left out. -/
def Instr.text (i : Instr) : AsmLine :=
  { mnemonic := i.mnemonic
    operands :=
      match i with
      | .clearScreen | .ret => []
      | .jump nnn | .call nnn | .loadIndex nnn | .jumpOffset nnn => [nnn.toNat]
      | .skipEqImm x kk | .skipNeImm x kk | .loadImm x kk | .addImm x kk | .randMask x kk => [x.toNat, kk.toNat]
      | .skipEqReg x y | .skipNeReg x y | .move x y | .or x y | .and x y | .xor x y | .addCarry x y
      | .subNotBorrow x y | .shiftRight x y | .subRevNotBorrow x y | .shiftLeft x y => [x.toNat, y.toNat]
      | .draw x y n => [x.toNat, y.toNat, n.toNat]
      | .skipKeyPressed x | .skipKeyNotPressed x | .readDelay x | .waitKey x | .setDelay x | .setSound x
      | .addIndex x | .glyphAddress x | .storeBcd x | .regDump x | .regLoad x => [x.toNat] }

/-- The instruction this decoder reads from the bits `w` of an instruction, of which the table gives `nbits`; the
word is laid out high byte first (R42) and given to `decodeBytes`. -/
def decodeTableWord (nbits w : Nat) : Option Instr :=
  let bits := w % 2 ^ nbits
  match decodeBytes [BitVec.ofNat 8 (bits / 256), BitVec.ofNat 8 bits] with
  | .op i _ => if bits < 65536 then some i else none
  | .error _ => none

end Sys2Proof
end

