-- ==== Sys2Proof/Config.lean ====
section
/-! DEFINITION. What an implementation chooses (rule R6, spec/00_scope.md): the types of the open parameters, and the
free values, which are constants with no body, so that nothing can be proved of what they are. The parameters'
VALUES stand in State (`State.params`), so a statement about every state holds for every setting of them; their
defaults stand in Machine/Params.lean. -/

namespace Sys2Proof

/-- `SHIFT_SOURCE` (R6, D8): which register shift-right and shift-left read. -/
inductive ShiftSource where
  /-- Read `V[y]`: the default. -/
  | vy
  /-- Read `V[x]` and ignore `y`. -/
  | vx
  deriving DecidableEq, Repr

/-- `UNRECOGNIZED_POLICY` (R6, R175, D7): what the core does after it has reported an unrecognized word. -/
inductive UnrecognizedPolicy where
  /-- The core halts: the default. -/
  | halt
  /-- The word is passed over; this also stands for "log". -/
  | skip
  deriving DecidableEq, Repr

/-- `KeySelect` (R6, R153, D14): which of several pressed keys wait-key stores. -/
inductive KeySelect where
  /-- The lowest index: the default. -/
  | lowest
  /-- Some pressed key, chosen by `Config.keyChoice`, of which nothing is known. -/
  | free
  deriving DecidableEq, Repr

/-- FREE VALUE (log entry 5): the random byte `rnd` of rule R190. The argument counts the bytes taken so far; nothing
relates two of them. -/
opaque Config.rnd : Nat → Byte

/-- FREE VALUE (log entry 3): the choice `KeySelect` makes among the pressed keys of a 16-key vector, as a position in
their list taken modulo its length. -/
opaque Config.keyChoice : Vector Bool 16 → Nat

end Sys2Proof
end

