-- ==== Sys2Proof/Machine/Params.lean ====
section
/-! DEFINITION. The defaults of the open parameters of rule R6 (spec/00_scope.md), which the reset state holds, and
the default glyph table of rule R45 (spec/20_memory.md). -/

namespace Sys2Proof.Machine

/-- Default of `SHIFT_SOURCE` (R6, D8). DESIGN CHOICE of the spec; no statement rests on it (log entry 1). -/
def defaultShiftSource : ShiftSource := .vy

/-- Default of `UNRECOGNIZED_POLICY` (R6, D7). DESIGN CHOICE of the spec; no statement rests on it (log entry 2). -/
def defaultUnrecognizedPolicy : UnrecognizedPolicy := .halt

/-- Default of `KeySelect` (R6, D14). DESIGN CHOICE of the spec; no statement rests on it (log entry 3). -/
def defaultKeySelect : KeySelect := .lowest

/-- `GLYPH_TABLE`, the 80 default bytes of rule R45 (G2). PRESUMED, unsafe (log entry 4): the source gives the
table's size and place but none of its bytes. -/
def glyphTable : List Byte :=
  [0xF0, 0x90, 0x90, 0x90, 0xF0,
   0x20, 0x60, 0x20, 0x20, 0x70,
   0xF0, 0x10, 0xF0, 0x80, 0xF0,
   0xF0, 0x10, 0xF0, 0x10, 0xF0,
   0x90, 0x90, 0xF0, 0x10, 0x10,
   0xF0, 0x80, 0xF0, 0x10, 0xF0,
   0xF0, 0x80, 0xF0, 0x90, 0xF0,
   0xF0, 0x10, 0x20, 0x40, 0x40] ++
  [0xF0, 0x90, 0xF0, 0x90, 0xF0,
   0xF0, 0x90, 0xF0, 0x10, 0xF0,
   0xF0, 0x90, 0xF0, 0x90, 0x90,
   0xE0, 0x90, 0xE0, 0x90, 0xE0,
   0xF0, 0x80, 0x80, 0x80, 0xF0,
   0xE0, 0x90, 0x90, 0x90, 0xE0,
   0xF0, 0x80, 0xF0, 0x80, 0xF0,
   0xF0, 0x80, 0xF0, 0x80, 0x80]

/-- The byte `GLYPH_TABLE[a]` (R45); 0 outside the table. -/
def glyphByte (a : Nat) : Byte := glyphTable.getD a 0

end Sys2Proof.Machine
end

