-- ==== Sys2Proof/Machine/State.lean ====
section
/-! DEFINITION. The machine's state, plain data: every piece of state of rules R10 to R23 (spec/10_state.md; the list
is closed, R24), and three fields of the model's own: the open parameters, the count of random bytes taken, and the
events the host issues next. Then the state after `Reset` (R25, R210). -/

namespace Sys2Proof.Machine

/-- The memory `Mem` (R18), as the cells that differ from their reset content: (address, byte) pairs, addresses
strictly rising and below 4096 (`Memory.wf`). -/
abbrev Memory := List Host.Cell

/-- The framebuffer `FB[r][c]`: 32 rows of 64 one-bit cells (R19, R144). -/
abbrev Framebuffer := Vector (Vector Bool 64) 32

/-- The input latch `Key[k]` (R21). -/
abbrev Keys := Vector Bool 16

/-- The execution mode (R22). -/
inductive Mode where
  /-- Instructions are fetched and executed. -/
  | running
  /-- A wait-key found no key pressed; it stores the key in register `r` when one is. -/
  | awaitingKey (r : RegIx)
  deriving DecidableEq, Repr

/-- The three faults of the core (R170). They are reported to the host and kept in the latch; the machine goes on
to a next state (R173, R174), so none of them is a `Fault` below. -/
inductive FaultKind where
  /-- The fetched word is no instruction (R67). -/
  | unrecognizedOpcode
  /-- A call with `SP = 15` (R92). -/
  | stackOverflow
  /-- A return with `SP = 0` (R90). -/
  | stackUnderflow
  deriving DecidableEq, Repr

/-- The record a fault leaves in the latch and in the report: its kind, the word fetched, the `pc` it was fetched at
(R23, R172). -/
structure FaultRecord where
  kind : FaultKind
  word : Word
  pc : Word
  deriving DecidableEq, Repr

/-- The events by which the machine moves (R7). The random byte of a Step is a free value (`Config.rnd`). -/
inductive HostEvent where
  /-- `Reset` (R210). -/
  | reset
  /-- `LoadProgram(bytes)` (R52). -/
  | loadProgram (bytes : List Byte)
  /-- `Step` (R70). -/
  | step
  /-- `Tick` (R185). -/
  | tick
  /-- `KeyEvent(k, pressed)` (R189). -/
  | keyEvent (k : KeyIx) (pressed : Bool)
  /-- `FramebufferRead` (R145). -/
  | framebufferRead
  deriving DecidableEq, Repr

/-- The open parameters of rule R6 whose value the state carries; no event changes them. -/
structure Params where
  shiftSource : ShiftSource
  unrecognizedPolicy : UnrecognizedPolicy
  keySelect : KeySelect
  deriving DecidableEq, Repr

/-- All the state of the block (R24), and the model's own `params`, `draws` and `hostQueue`. -/
structure State where
  /-- `V[0]` to `V[15]` (R10); `V[15]` is `VF` (R11). -/
  v : Vector Byte 16
  /-- The index register `I` (R12). -/
  i : Word
  /-- The program counter (R13). -/
  pc : Word
  /-- The stack pointer: the number of active frames (R15). -/
  sp : BitVec 4
  /-- `Stack[0]` to `Stack[15]` (R14). -/
  stack : Vector Word 16
  /-- The delay timer `DT` (R16). -/
  dt : Byte
  /-- The sound timer `ST` (R17). -/
  st : Byte
  /-- The memory (R18). -/
  mem : Memory
  /-- The framebuffer (R19). -/
  fb : Framebuffer
  /-- The dirty flag (R20). -/
  dirty : Bool
  /-- The input latch (R21). -/
  keys : Keys
  /-- The execution mode (R22). -/
  mode : Mode
  /-- The fault latch: the first fault since `Reset` (R23). -/
  fault : Option FaultRecord
  /-- The core has halted (R23). -/
  halted : Bool
  /-- MODEL'S OWN: the open parameters (log entries 1 to 3). -/
  params : Params
  /-- MODEL'S OWN: how many random bytes have been taken (log entry 5). -/
  draws : Nat
  /-- MODEL'S OWN: the events the host issues next, oldest first; when there is none, the host issues a Step
  (log entry 6). -/
  hostQueue : List HostEvent
  deriving DecidableEq, Repr

/-- Why a step could stop the machine for good. No rule of the spec does that: the core's faults (`FaultKind`) are
latched and reported and leave a next state in which the host's events still act (R174, R176), and no other
instruction can fail (R171). So there is no constructor: nobody raises one, which is neither safe nor unsafe. -/
inductive Fault where
  deriving DecidableEq, Repr

/-- Why an instruction could have no meaning. -/
inductive Refusal where
  /-- Raised only by an arm of `exec` for an instruction not modelled yet; safe. No arm does. -/
  | notModelled (mnemonic : String)
  deriving DecidableEq, Repr

/-- The state after `Reset` (R25, R210): nothing listed in memory, which then reads as the glyph table at 0x000 to
0x04F and zero elsewhere (`Memory.unlisted`); the parameters at their defaults (R6). -/
def State.reset : State where
  v := Vector.replicate 16 0
  i := 0
  pc := 0x0200
  sp := 0
  stack := Vector.replicate 16 0
  dt := 0
  st := 0
  mem := []
  fb := Vector.replicate 32 (Vector.replicate 64 false)
  dirty := false
  keys := Vector.replicate 16 false
  mode := .running
  fault := none
  halted := false
  params :=
    { shiftSource := defaultShiftSource
      unrecognizedPolicy := defaultUnrecognizedPolicy
      keySelect := defaultKeySelect }
  draws := 0
  hostQueue := []

end Sys2Proof.Machine
end

