-- ==== Sys2Proof/Machine/Ops.lean ====
section
/-! DEFINITION. The named operations over memory, registers, the program counter, the stack, the framebuffer, the key
latch and the fault latch. Every read or write of state by a meaning goes through one of these. -/

namespace Sys2Proof.Machine

/-! ### Memory (spec/20_memory.md) -/

/-- What an address that is not listed reads as: its content after `Reset` (R25): the glyph table at 0x000 to 0x04F,
zero elsewhere. -/
def Memory.unlisted (a : Nat) : Byte := if a < glyphBytes then glyphByte a else 0

/-- The byte at address `a`. -/
def Memory.read : Memory → Nat → Byte
  | [], a => Memory.unlisted a
  | (b, v) :: m, a => if b = a then v else Memory.read m a

/-- Put a cell at its place in a list of cells with rising addresses. -/
def Memory.insert (a : Nat) (v : Byte) : Memory → Memory
  | [] => [(a, v)]
  | (b, u) :: m => if a < b then (a, v) :: (b, u) :: m else (b, u) :: Memory.insert a v m

/-- Store a byte at address `a`, keeping the canonical form: a byte equal to what an unlisted address reads as is not
listed. -/
def Memory.write (m : Memory) (a : Nat) (v : Byte) : Memory :=
  let rest := m.filter fun c => c.1 != a
  if v = Memory.unlisted a then rest else Memory.insert a v rest

/-- The canonical form: addresses strictly rising and inside the memory, no entry equal to what an unlisted address
reads as. -/
abbrev Memory.wf (m : Memory) : Prop :=
  m.Pairwise (fun c d => c.1 < d.1) ∧ ∀ c ∈ m, c.1 < memSize ∧ c.2 ≠ Memory.unlisted c.1

/-- Address reduction (R41): every access uses the address modulo 4096. -/
def reduce (a : Word) : Nat := a.toNat % memSize

/-- `MemRead(addr, 1)` (R46). -/
def State.readByte (s : State) (a : Word) : Byte := s.mem.read (reduce a)

/-- `MemWrite(addr, 1, v)` (R47): there is no write protection (R50). -/
def State.writeByte (s : State) (a : Word) (v : Byte) : State := { s with mem := s.mem.write (reduce a) v }

/-- `MemRead(addr, 2)` (R46): the byte at `addr` is the high byte (R42), each address reduced apart (R41). -/
def State.readWord (s : State) (a : Word) : Word := wordOfBytes (s.readByte a) (s.readByte (a + 1))

/-- The instruction fetch (R60). -/
def State.fetchWord (s : State) : Word := s.readWord s.pc

/-- `MemWrite` of consecutive bytes from `a` upwards, in order (R47). -/
def State.writeBytes (s : State) (a : Word) : List Byte → State
  | [] => s
  | b :: bs => (s.writeByte a b).writeBytes (a + 1) bs

/-! ### General registers, index register, program counter -/

/-- Read `V[x]` (R10). -/
def State.reg (s : State) (x : RegIx) : Byte := s.v[x.toNat]'x.isLt

/-- `V[x] <- b` (R10): no register is hard-wired. -/
def State.setReg (s : State) (x : RegIx) (b : Byte) : State := { s with v := s.v.set x.toNat b x.isLt }

/-- `I <- a` (R12). -/
def State.setIndex (s : State) (a : Word) : State := { s with i := a }

/-- `pc <- target` (R13). -/
def State.setPc (s : State) (target : Word) : State := { s with pc := target }

/-- The sequential case of rule R71: `pc <- (pc + 2) mod 65536`. -/
def State.advance (s : State) : State := s.setPc (s.pc + 2)

/-- The two skip cases of rule R71: `pc + 4` when the condition holds, else `pc + 2`. -/
def State.skipIf (s : State) (condition : Bool) : State := s.setPc (if condition then s.pc + 4 else s.pc + 2)

/-! ### Faults (spec/60_exceptions.md) -/

/-- The numeric code of a fault (R170, D28); 0 is no fault. -/
def FaultKind.code : FaultKind → Nat
  | .unrecognizedOpcode => 1
  | .stackOverflow => 2
  | .stackUnderflow => 3

/-- The record of a fault raised now: its kind, the word fetched, the `pc` it was fetched at (R172). -/
def State.faultRecord (s : State) (kind : FaultKind) (word : Word) : FaultRecord :=
  { kind := kind, word := word, pc := s.pc }

/-- RAISING A FAULT (R173 to R175): nothing is written but the latch, which keeps the first record; a stack fault
halts the core, an unrecognized word halts it or is passed over, by the policy. There is no trap entry, no handler
(R179) and no return from a fault (R180); only `Reset` clears the latch (R174). -/
def State.raise (s : State) (kind : FaultKind) (word : Word) : State :=
  let latched := { s with fault := s.fault.or (some (s.faultRecord kind word)) }
  match kind with
  | .stackOverflow => { latched with halted := true }
  | .stackUnderflow => { latched with halted := true }
  | .unrecognizedOpcode =>
    match s.params.unrecognizedPolicy with
    | .halt => { latched with halted := true }
    | .skip => latched.advance

/-! ### The return stack (R14, R15) -/

/-- The stack holds 15 frames: `STACK_DEPTH` (R5; C1, D2, log entry 9). -/
def State.stackFull (s : State) : Bool := s.sp == 15

/-- No frame is active (R15). -/
def State.stackEmpty (s : State) : Bool := s.sp == 0

/-- Increment `SP`, then store (R92). -/
def State.push (s : State) (a : Word) : State :=
  let sp := s.sp + 1
  { s with sp := sp, stack := s.stack.set sp.toNat a sp.isLt }

/-- `Stack[SP]` (R90). -/
def State.top (s : State) : Word := s.stack[s.sp.toNat]'s.sp.isLt

/-- `SP <- SP - 1`; the entry is not erased (R90). -/
def State.pop (s : State) : State := { s with sp := s.sp - 1 }

/-! ### Framebuffer (R19, R144) -/

/-- The cell at row `r`, column `c`, the coordinates wrapped modulo the framebuffer's height and width (R144). -/
def Framebuffer.cell (fb : Framebuffer) (r c : Nat) : Bool :=
  (fb[r % 32]'(Nat.mod_lt r (by decide)))[c % 64]'(Nat.mod_lt c (by decide))

/-- `FB[r][c] <- FB[r][c] XOR 1`, the coordinates wrapped (R141, R144). -/
def Framebuffer.toggle (fb : Framebuffer) (r c : Nat) : Framebuffer :=
  let row := fb[r % 32]'(Nat.mod_lt r (by decide))
  fb.set (r % 32) (row.set (c % 64) (!(fb.cell r c)) (Nat.mod_lt c (by decide))) (Nat.mod_lt r (by decide))

/-- Every cell 0 (R140). -/
def Framebuffer.blank : Framebuffer := Vector.replicate 32 (Vector.replicate 64 false)

/-- What a draw builds up: the framebuffer and the collision bit (R141). -/
structure Canvas where
  fb : Framebuffer
  collision : Bool
  deriving DecidableEq, Repr

/-- Toggle one cell; turning a set cell off is a collision (R141, R142 (d)). -/
def Canvas.plot (k : Canvas) (r c : Nat) : Canvas :=
  { fb := k.fb.toggle r c, collision := k.collision || k.fb.cell r c }

/-- Sprite column `col` of a sprite byte: bit `7 - col` (R144). PRESUMED bit order, unsafe (D25, G3, log entry 21). -/
def spriteBit (b : Byte) (col : Nat) : Bool := b.getLsbD (7 - col)

/-- One row of a sprite at row `r`, its first pixel at column `vx` (R141). -/
def Canvas.drawRow (k : Canvas) (r vx : Nat) (b : Byte) : Canvas :=
  (List.range 8).foldl (fun k col => if spriteBit b col then k.plot r (vx + col) else k) k

/-- A sprite, one byte a row, its first row at row `vy` (R141). -/
def Canvas.drawSprite (k : Canvas) (vx vy : Nat) : List Byte → Canvas
  | [] => k
  | b :: bs => (k.drawRow vy vx b).drawSprite vx (vy + 1) bs

/-- The `n` bytes from address `a` upwards (R141, R162), each address reduced apart (R41). -/
def State.readBytes (s : State) (a : Word) : Nat → List Byte
  | 0 => []
  | n + 1 => s.readByte a :: s.readBytes (a + 1) n

/-! ### The key latch (spec/43_keys_and_timers.md) -/

/-- `keys[k]` (R157). -/
def Keys.pressed (keys : Keys) (k : KeyIx) : Bool := keys[k.toNat]'k.isLt

/-- The pressed keys, lowest index first. -/
def Keys.pressedList (keys : Keys) : List KeyIx :=
  ((List.range 16).map (BitVec.ofNat 4)).filter fun k => keys.pressed k

/-- `keys != 0`: at least one key is pressed (R153). -/
def Keys.any (keys : Keys) : Bool := !keys.pressedList.isEmpty

/-- `KeySelect(keys)` (R6, R153): a pressed key, the lowest or a free choice (log entry 3). With one key pressed both
settings give that key. -/
def Keys.select (keys : Keys) (how : KeySelect) : KeyIx :=
  match keys.pressedList with
  | [] => 0
  | k :: ks =>
    match how with
    | .lowest => k
    | .free => ((k :: ks)[Config.keyChoice keys % (ks.length + 1)]?).getD k

/-- Store the selected key in `V[r]` and go on (R153, R154). -/
def State.takeKey (s : State) (r : RegIx) : State :=
  (s.setReg r ((s.keys.select s.params.keySelect).zeroExtend 8)).advance

/-- The Step in mode `AwaitingKey(r)` (R154): nothing is fetched; with no key pressed nothing changes. -/
def State.waitingStep (s : State) (r : RegIx) : State :=
  if s.keys.any then { s.takeKey r with mode := .running } else s

end Sys2Proof.Machine
end

