-- ==== Sys2Proof/Machine/Operands.lean ====
section
/-! DEFINITION. The operand forms: how an instruction's fields become values and addresses (R63, R163). Registers are
named directly by their index (`State.reg`), immediates are used as they are. -/

namespace Sys2Proof.Machine

/-- An address field as a 16-bit value: `zext_16(nnn)` (R63). -/
def zextAddr (nnn : Addr12) : Word := nnn.zeroExtend 16

/-- A register's value as a 16-bit value: `zext_16(V[x])` (R97, R123, R143). -/
def State.regWord (s : State) (x : RegIx) : Word := (s.reg x).zeroExtend 16

/-- The address of byte number `k` of a transfer (R163): register-indirect through `I`, with an ascending offset. It is
reduced modulo 4096 at the access (R41). -/
def State.dataAddr (s : State) (k : Nat) : Word := s.i + BitVec.ofNat 16 k

/-- The source of the shifts: `V[y]` or `V[x]`, by `SHIFT_SOURCE` (R119, R121; D8, log entry 1). -/
def State.shiftOperand (s : State) (x y : RegIx) : Byte :=
  match s.params.shiftSource with
  | .vy => s.reg y
  | .vx => s.reg x

/-- The key a key skip tests: `V[x] mod 16` (R150; D13, log entry 15). -/
def State.keyOperand (s : State) (x : RegIx) : KeyIx := (s.reg x).truncate 4

/-- The registers `V[0]` to `V[x]`, `V[0]` first (R161). -/
def State.regBlock (s : State) (x : RegIx) : List Byte := s.v.toList.take (x.toNat + 1)

/-- Load `V[k]`, `V[k+1]`, … from consecutive bytes (R162). -/
def State.setRegBlock (s : State) (k : RegIx) : List Byte → State
  | [] => s
  | b :: bs => (s.setReg k b).setRegBlock (k + 1) bs

/-- The decimal digits of a byte: hundreds, tens, ones (R160). -/
def bcdDigits (b : Byte) : List Byte :=
  [BitVec.ofNat 8 (b.toNat / 100), BitVec.ofNat 8 (b.toNat / 10 % 10), BitVec.ofNat 8 (b.toNat % 10)]

/-- `n`, the sprite height, as a count of rows (R63). -/
def rowCount (n : Nibble) : Nat := n.toNat

end Sys2Proof.Machine
end

