-- ==== Sys2Proof/Machine/ControlTransfer.lean ====
section
/-! DEFINITION. The meanings of the control transfers (spec/40_control_transfer.md, R90 to R98). -/

namespace Sys2Proof.Machine

/-- return (R90): with no active frame, `StackUnderflow`; else `pc` is the popped address, with nothing added (D3, log
entry 10). -/
def execRet (s : State) : Host.Outcome State Fault Refusal :=
  if s.stackEmpty then .next (s.raise .stackUnderflow (encode .ret))
  else .next (s.pop.setPc s.top)

/-- jump nnn (R91). -/
def execJump (nnn : Addr12) (s : State) : Host.Outcome State Fault Refusal :=
  .next (s.setPc (zextAddr nnn))

/-- call nnn (R92): with 15 active frames, `StackOverflow`; else the address after the call is pushed. -/
def execCall (nnn : Addr12) (s : State) : Host.Outcome State Fault Refusal :=
  if s.stackFull then .next (s.raise .stackOverflow (encode (.call nnn)))
  else .next ((s.push (s.pc + 2)).setPc (zextAddr nnn))

/-- skip-eq-imm x, kk (R93). -/
def execSkipEqImm (x : RegIx) (kk : Byte) (s : State) : Host.Outcome State Fault Refusal :=
  .next (s.skipIf (s.reg x == kk))

/-- skip-ne-imm x, kk (R94). -/
def execSkipNeImm (x : RegIx) (kk : Byte) (s : State) : Host.Outcome State Fault Refusal :=
  .next (s.skipIf (s.reg x != kk))

/-- skip-eq-reg x, y (R95). -/
def execSkipEqReg (x y : RegIx) (s : State) : Host.Outcome State Fault Refusal :=
  .next (s.skipIf (s.reg x == s.reg y))

/-- skip-ne-reg x, y (R96). -/
def execSkipNeReg (x y : RegIx) (s : State) : Host.Outcome State Fault Refusal :=
  .next (s.skipIf (s.reg x != s.reg y))

/-- jump-offset nnn (R97): the sum is not reduced to 12 bits in `pc`. -/
def execJumpOffset (nnn : Addr12) (s : State) : Host.Outcome State Fault Refusal :=
  .next (s.setPc (zextAddr nnn + s.regWord 0))

end Sys2Proof.Machine
end

