-- ==== Sys2Proof/Machine/Flags.lean ====
section
/-! DEFINITION. The flag register `VF` (R11, spec/10_state.md): the value each of the six flag-writing instructions
gives it, and the order of the two writes (R112, spec/41_load_and_alu.md). No other instruction writes `VF` but as a
named destination (D10, log entry 12). -/

namespace Sys2Proof.Machine

/-- A flag as a register value: always 0 or 1 (R11). -/
def flagByte (b : Bool) : Byte := if b then 1 else 0

/-- add-with-carry: the unsigned sum is greater than 255 (R117). -/
def carryOut (a b : Byte) : Bool := a.toNat + b.toNat > 255

/-- The subtracts: the minuend is at least the subtrahend (R118, R120). -/
def notBorrow (minuend subtrahend : Byte) : Bool := minuend.toNat >= subtrahend.toNat

/-- shift-right: bit 0 of the source (R119). -/
def shiftedOutLow (b : Byte) : Bool := b.getLsbD 0

/-- shift-left: bit 7 of the source (R121). -/
def shiftedOutHigh (b : Byte) : Bool := b.getLsbD 7

/-- `VF <- flag`. -/
def State.setFlag (s : State) (flag : Bool) : State := s.setReg flagIx (flagByte flag)

/-- The common rule of the five flag-writing ALU operations (R112): the result to `V[x]`, then the flag to `VF`, so
that with `x = 0xF` the flag remains (D9, log entry 11); then `pc` advances. -/
def State.writeResultFlag (s : State) (x : RegIx) (result : Byte) (flag : Bool) : State :=
  ((s.setReg x result).setFlag flag).advance

end Sys2Proof.Machine
end

