-- ==== Sys2Proof/Machine/Display.lean ====
section
/-! DEFINITION. The meanings of the display instructions (spec/42_display.md, R140 to R144). -/

namespace Sys2Proof.Machine

/-- clear-screen (R140): `dirty` is set whatever the cells were (C8, log entry 26). -/
def execClearScreen (s : State) : Host.Outcome State Fault Refusal :=
  .next { s with fb := Framebuffer.blank, dirty := true }.advance

/-- The framebuffer and collision bit that draw x, y, n leaves (R141): the coordinates are read before `VF` is
written. -/
def State.drawn (s : State) (x y : RegIx) (n : Nibble) : Canvas :=
  Canvas.drawSprite { fb := s.fb, collision := false } (s.reg x).toNat (s.reg y).toNat
    (s.readBytes s.i (rowCount n))

/-- draw x, y, n (R141, R142): `I` is unchanged (D11, log entry 13), `dirty` is set even if no cell changed (C8). -/
def execDraw (x y : RegIx) (n : Nibble) (s : State) : Host.Outcome State Fault Refusal :=
  .next ({ s with fb := (s.drawn x y n).fb, dirty := true }.setFlag (s.drawn x y n).collision).advance

/-- glyph-address x (R143): the whole 8-bit value is multiplied (D12, log entry 14). -/
def execGlyphAddress (x : RegIx) (s : State) : Host.Outcome State Fault Refusal :=
  .next (s.setIndex (s.regWord x * 5)).advance

end Sys2Proof.Machine
end

