-- ==== Sys2Proof/Machine/KeysTimers.lean ====
section
/-! DEFINITION. The meanings of the key and timer instructions (spec/43_keys_and_timers.md, R150 to R157). -/

namespace Sys2Proof.Machine

/-- skip-key-pressed x (R150). -/
def execSkipKeyPressed (x : RegIx) (s : State) : Host.Outcome State Fault Refusal :=
  .next (s.skipIf (s.keys.pressed (s.keyOperand x)))

/-- skip-key-not-pressed x (R151). -/
def execSkipKeyNotPressed (x : RegIx) (s : State) : Host.Outcome State Fault Refusal :=
  .next (s.skipIf (!s.keys.pressed (s.keyOperand x)))

/-- read-delay x (R152). -/
def execReadDelay (x : RegIx) (s : State) : Host.Outcome State Fault Refusal :=
  .next (s.setReg x s.dt).advance

/-- wait-key x (R153): the test is on the level of the latch (D14, log entry 16); with no key pressed only the mode
changes. -/
def execWaitKey (x : RegIx) (s : State) : Host.Outcome State Fault Refusal :=
  if s.keys.any then .next (s.takeKey x) else .next { s with mode := .awaitingKey x }

/-- set-delay x (R155). -/
def execSetDelay (x : RegIx) (s : State) : Host.Outcome State Fault Refusal :=
  .next { s with dt := s.reg x }.advance

/-- set-sound x (R156). -/
def execSetSound (x : RegIx) (s : State) : Host.Outcome State Fault Refusal :=
  .next { s with st := s.reg x }.advance

end Sys2Proof.Machine
end

