-- ==== Sys2Proof/Machine/LoadAlu.lean ====
section
/-! DEFINITION. The meanings of the loads of immediates, the register-register group, index arithmetic and rand-mask
(spec/41_load_and_alu.md, R110 to R125). -/

namespace Sys2Proof.Machine

/-- load-imm x, kk (R110). -/
def execLoadImm (x : RegIx) (kk : Byte) (s : State) : Host.Outcome State Fault Refusal :=
  .next (s.setReg x kk).advance

/-- add-imm x, kk (R111): wraps modulo 256, no flag. -/
def execAddImm (x : RegIx) (kk : Byte) (s : State) : Host.Outcome State Fault Refusal :=
  .next (s.setReg x (s.reg x + kk)).advance

/-- move x, y (R113). -/
def execMove (x y : RegIx) (s : State) : Host.Outcome State Fault Refusal :=
  .next (s.setReg x (s.reg y)).advance

/-- or x, y (R114): no flag (D10, log entry 12). -/
def execOr (x y : RegIx) (s : State) : Host.Outcome State Fault Refusal :=
  .next (s.setReg x (s.reg x ||| s.reg y)).advance

/-- and x, y (R115): no flag (D10, log entry 12). -/
def execAnd (x y : RegIx) (s : State) : Host.Outcome State Fault Refusal :=
  .next (s.setReg x (s.reg x &&& s.reg y)).advance

/-- xor x, y (R116): no flag (D10, log entry 12). -/
def execXor (x y : RegIx) (s : State) : Host.Outcome State Fault Refusal :=
  .next (s.setReg x (s.reg x ^^^ s.reg y)).advance

/-- add-with-carry x, y (R117). -/
def execAddCarry (x y : RegIx) (s : State) : Host.Outcome State Fault Refusal :=
  .next (s.writeResultFlag x (s.reg x + s.reg y) (carryOut (s.reg x) (s.reg y)))

/-- subtract-with-not-borrow x, y (R118). -/
def execSubNotBorrow (x y : RegIx) (s : State) : Host.Outcome State Fault Refusal :=
  .next (s.writeResultFlag x (s.reg x - s.reg y) (notBorrow (s.reg x) (s.reg y)))

/-- shift-right x, y (R119). -/
def execShiftRight (x y : RegIx) (s : State) : Host.Outcome State Fault Refusal :=
  .next (s.writeResultFlag x (s.shiftOperand x y >>> 1) (shiftedOutLow (s.shiftOperand x y)))

/-- subtract-reversed-with-not-borrow x, y (R120). -/
def execSubRevNotBorrow (x y : RegIx) (s : State) : Host.Outcome State Fault Refusal :=
  .next (s.writeResultFlag x (s.reg y - s.reg x) (notBorrow (s.reg y) (s.reg x)))

/-- shift-left x, y (R121). -/
def execShiftLeft (x y : RegIx) (s : State) : Host.Outcome State Fault Refusal :=
  .next (s.writeResultFlag x (s.shiftOperand x y <<< 1) (shiftedOutHigh (s.shiftOperand x y)))

/-- load-index nnn (R122). -/
def execLoadIndex (nnn : Addr12) (s : State) : Host.Outcome State Fault Refusal :=
  .next (s.setIndex (zextAddr nnn)).advance

/-- add-index x (R123): wraps modulo 65536, no flag. -/
def execAddIndex (x : RegIx) (s : State) : Host.Outcome State Fault Refusal :=
  .next (s.setIndex (s.i + s.regWord x)).advance

/-- rand-mask x, kk for a given random byte (R124). -/
def State.randMask (s : State) (x : RegIx) (kk rnd : Byte) : State :=
  (s.setReg x (rnd &&& kk)).advance

/-- rand-mask x, kk (R124): the random byte is the next free value, and the count of those taken advances (R190, log
entry 5). -/
def execRandMask (x : RegIx) (kk : Byte) (s : State) : Host.Outcome State Fault Refusal :=
  .next { s.randMask x kk (Config.rnd s.draws) with draws := s.draws + 1 }

end Sys2Proof.Machine
end

