-- ==== Sys2Proof/Machine/MemoryTransfer.lean ====
section
/-! DEFINITION. The meanings of the memory transfers (spec/44_memory_transfer.md, R160 to R163). `I` is unchanged by all
three (D11, log entry 13). -/

namespace Sys2Proof.Machine

/-- store-bcd x (R160). -/
def execStoreBcd (x : RegIx) (s : State) : Host.Outcome State Fault Refusal :=
  .next (s.writeBytes s.i (bcdDigits (s.reg x))).advance

/-- reg-dump x (R161). -/
def execRegDump (x : RegIx) (s : State) : Host.Outcome State Fault Refusal :=
  .next (s.writeBytes s.i (s.regBlock x)).advance

/-- reg-load x (R162). -/
def execRegLoad (x : RegIx) (s : State) : Host.Outcome State Fault Refusal :=
  .next (s.setRegBlock 0 (s.readBytes s.i (x.toNat + 1))).advance

end Sys2Proof.Machine
end

