-- ==== Sys2Proof/Machine/Events.lean ====
section
/-! DEFINITION. The host's events other than Step (R7, R196): what each does to the state, and what it hands back. -/

namespace Sys2Proof.Machine

/-- A timer one tick later: it counts down and stays at 0 (R184, R185). -/
def countDown (t : Byte) : Byte := if t = 0 then 0 else t - 1

/-- `Tick` (R185): the two timers are tested apart; nothing else changes. -/
def State.tick (s : State) : State := { s with dt := countDown s.dt, st := countDown s.st }

/-- `KeyEvent(k, pressed)` (R189). -/
def State.keyEvent (s : State) (k : KeyIx) (pressed : Bool) : State :=
  { s with keys := s.keys.set k.toNat pressed k.isLt }

/-- What `LoadProgram` answers (R52, R181). -/
inductive LoadResult where
  | ok
  | programTooLarge
  deriving DecidableEq, Repr

/-- The result of `LoadProgram(bytes)` (R52). -/
def loadResult (bytes : List Byte) : LoadResult :=
  if bytes.length > programMax then .programTooLarge else .ok

/-- `LoadProgram(bytes)` (R52): all of the bytes from 0x200 upwards, or, when they do not fit, nothing (D27, log
entry 23). -/
def State.loadProgram (s : State) (bytes : List Byte) : State :=
  match loadResult bytes with
  | .ok => s.writeBytes (BitVec.ofNat 16 programBase) bytes
  | .programTooLarge => s

/-- `FramebufferRead` (R145): the flag is cleared, the grid stays. -/
def State.framebufferRead (s : State) : State := { s with dirty := false }

/-- `Reset` (R210): every piece of the spec's state at its reset value. The model's own fields are not the block's
state and stay: the parameters, the count of random bytes taken, the host's later events (log entry 32). -/
def State.resetEvent (s : State) : State :=
  { State.reset with params := s.params, draws := s.draws, hostQueue := s.hostQueue }

end Sys2Proof.Machine
end

