-- ==== Sys2Proof/Machine/Cycle.lean ====
section
/-! DEFINITION. The Step event (R70, spec/30_encoding.md), its outcome as the host sees it, and performing any event.
The outcome is the result of one Step and is not kept (R26 (e), R146), so it is a function of the state the Step
starts from and no field of State (log entry 8). -/

namespace Sys2Proof.Machine

/-- The Step event (R70): nothing on a halted core (R176); the key test again in mode `AwaitingKey` (R154); else fetch,
decode, and execute or raise `UnrecognizedOpcode`. -/
def coreStep (s : State) : Host.Outcome State Fault Refusal :=
  if s.halted then .next s
  else
    match s.mode with
    | .awaitingKey r => .next (s.waitingStep r)
    | .running =>
      match decode s.fetchWord with
      | .op i => exec i s
      | .unrecognized => .next (s.raise .unrecognizedOpcode s.fetchWord)

/-- The four outcomes a Step returns to the host (R70). -/
inductive StepOutcome where
  /-- `Ok(redraw)`: one instruction was completed. -/
  | ok (redraw : Bool)
  /-- `Waiting`: the core is in, or has just entered, `AwaitingKey`. -/
  | waiting
  /-- `Fault(kind, w, pc)` (R172). -/
  | fault (r : FaultRecord)
  /-- `Halted` (R176). -/
  | halted
  deriving DecidableEq, Repr

/-- The outcome of a Step that executes instruction `i` (R70, R146): the two stack faults, the wait, and `redraw` for
clear-screen and draw. -/
def instrOutcome (i : Instr) (s : State) : StepOutcome :=
  match i with
  | .clearScreen => .ok true
  | .draw _ _ _ => .ok true
  | .ret => if s.stackEmpty then .fault (s.faultRecord .stackUnderflow (encode .ret)) else .ok false
  | .call nnn => if s.stackFull then .fault (s.faultRecord .stackOverflow (encode (.call nnn))) else .ok false
  | .waitKey _ => if s.keys.any then .ok false else .waiting
  | .jump _ | .skipEqImm _ _ | .skipNeImm _ _ | .skipEqReg _ _ | .loadImm _ _ | .addImm _ _ | .move _ _
  | .or _ _ | .and _ _ | .xor _ _ | .addCarry _ _ | .subNotBorrow _ _ | .shiftRight _ _ | .subRevNotBorrow _ _
  | .shiftLeft _ _ | .skipNeReg _ _ | .loadIndex _ | .jumpOffset _ | .randMask _ _ | .skipKeyPressed _
  | .skipKeyNotPressed _ | .readDelay _ | .setDelay _ | .setSound _ | .addIndex _ | .glyphAddress _
  | .storeBcd _ | .regDump _ | .regLoad _ => .ok false

/-- What a Step from `s` returns to the host (R70). -/
def stepOutcome (s : State) : StepOutcome :=
  if s.halted then .halted
  else
    match s.mode with
    | .awaitingKey _ => if s.keys.any then .ok false else .waiting
    | .running =>
      match decode s.fetchWord with
      | .op i => instrOutcome i s
      | .unrecognized => .fault (s.faultRecord .unrecognizedOpcode s.fetchWord)

/-- The `redraw` answer of an outcome: `Waiting`, `Fault` and `Halted` count as 0 (R146). -/
def StepOutcome.redraw : StepOutcome → Bool
  | .ok redraw => redraw
  | .waiting => false
  | .fault _ => false
  | .halted => false

/-- What an event hands back to the host (R196). -/
inductive EventResult where
  /-- `Reset`, `Tick` and `KeyEvent` return nothing. -/
  | nothing
  /-- The result of `LoadProgram`. -/
  | loaded (r : LoadResult)
  /-- The outcome of a Step. -/
  | stepped (o : StepOutcome)
  /-- The snapshot of `FramebufferRead`: the grid and the dirty flag before it is cleared (R145). -/
  | frame (fb : Framebuffer) (dirty : Bool)
  deriving DecidableEq, Repr

/-- Perform one event, whole (R7, R215). -/
def perform (e : HostEvent) (s : State) : Host.Outcome State Fault Refusal :=
  match e with
  | .reset => .next s.resetEvent
  | .loadProgram bytes => .next (s.loadProgram bytes)
  | .step => coreStep s
  | .tick => .next s.tick
  | .keyEvent k pressed => .next (s.keyEvent k pressed)
  | .framebufferRead => .next s.framebufferRead

/-- What performing one event hands back to the host (R196). -/
def eventResult (e : HostEvent) (s : State) : EventResult :=
  match e with
  | .reset => .nothing
  | .loadProgram bytes => .loaded (loadResult bytes)
  | .step => .stepped (stepOutcome s)
  | .tick => .nothing
  | .keyEvent _ _ => .nothing
  | .framebufferRead => .frame s.fb s.dirty

/-- The event that happens next: the host's first waiting event, or a Step when none waits (R7, log entry 6). -/
def State.nextEvent (s : State) : HostEvent := s.hostQueue.headD .step

/-- The state with the next event taken from the host's queue. -/
def State.takeEvent (s : State) : State := { s with hostQueue := s.hostQueue.tail }

/-- What the next event hands back to the host. -/
def nextResult (s : State) : EventResult := eventResult s.nextEvent s.takeEvent

/-- The state in which a Step fetches and runs the word whose bits are `bits`: it lies at `pc`, high byte first, the
core runs, and no other event comes before the Step. -/
def State.placeWord (s : State) (bits : Nat) : State :=
  { (s.writeByte s.pc (BitVec.ofNat 8 (bits / 256))).writeByte (s.pc + 1) (BitVec.ofNat 8 bits) with
    mode := .running, halted := false, hostQueue := [] }

end Sys2Proof.Machine
end

