-- ==== Sys2Proof/Machine/Step.lean ====
section
/-! DEFINITION. The step function: one event of the total order of rule R7, performed whole. -/

namespace Sys2Proof.Machine

/-- One event: the host's next one, or a Step when the host has none waiting (R7). -/
def step (s : State) : Host.Outcome State Fault Refusal := perform s.nextEvent s.takeEvent

/-- The state with the instruction whose bits are `w` (of which the table gives `nbits`) placed where the next step
fetches it. -/
def State.withFetchWord (s : State) (nbits w : Nat) : State := s.placeWord (w % 2 ^ nbits)

end Sys2Proof.Machine
end

