-- ==== Sys2Proof/Safety.lean ====
section
/-! DEFINITION. What statements speak of: safe states and the ends of a run, the invariant every event keeps, the frame
predicates (what an instruction leaves unchanged), and who may write what (R27, spec/10_state.md). -/

namespace Sys2Proof.Machine

/-! ### Runs (spec/70_reset_and_hazards.md) -/

/-- No fault has been reported since `Reset`: the premise rule R174 asks of a claim about a program. -/
def State.noFault (s : State) : Prop := s.fault = none ∧ s.halted = false

/-- The end of a run in failure (R213 (a)). -/
def State.endedInFailure (s : State) : Prop := s.halted = true

/-- The normal end of a run (R213 (b)): the core runs, and the word at `pc` is a jump to `pc` itself. -/
def State.endedNormally (s : State) : Prop :=
  s.mode = .running ∧ s.halted = false ∧ s.pc.toNat ≤ 0x0FFF ∧ s.fetchWord = 0x1000#16 ||| s.pc

/-- The core is about to fetch: it has not halted and does not wait for a key (R70). -/
def State.fetches (s : State) : Prop := s.halted = false ∧ s.mode = .running

/-! ### The invariant -/

/-- A fault record names a word that raises its kind of fault (R170). -/
def FaultRecord.sound (r : FaultRecord) : Prop :=
  match r.kind with
  | .unrecognizedOpcode => decode r.word = .unrecognized
  | .stackOverflow => ∃ nnn, decode r.word = .op (.call nnn)
  | .stackUnderflow => r.word = 0x00EE#16

/-- What every event keeps: memory is canonical; entry 0 of the stack is never written (R14); a halted core has a
fault latched (R174); the latched record is sound; under policy `HALT`, and for a stack fault under either policy, a
latched fault means that the core has halted (R174, R175). -/
def State.Inv (s : State) : Prop :=
  s.mem.wf ∧ s.stack[0] = 0 ∧
    (s.halted = true → s.fault ≠ none) ∧
    (∀ r, s.fault = some r → r.sound) ∧
    (∀ r, s.fault = some r → s.params.unrecognizedPolicy = .halt ∨ r.kind ≠ .unrecognizedOpcode → s.halted = true)

/-! ### Frames -/

/-- Every byte of memory reads as before. -/
def State.SameMemory (s t : State) : Prop := ∀ a, t.readByte a = s.readByte a

/-- Nothing but `pc` may differ. -/
def State.FramePc (s t : State) : Prop := t = { s with pc := t.pc } ∧ s.SameMemory t

/-- Nothing but general registers and `pc` may differ. -/
def State.FrameRegs (s t : State) : Prop := t = { s with v := t.v, pc := t.pc } ∧ s.SameMemory t

/-- Nothing but `I` and `pc` may differ. -/
def State.FrameIndex (s t : State) : Prop := t = { s with i := t.i, pc := t.pc } ∧ s.SameMemory t

/-- Nothing but `SP`, the stack and `pc` may differ. -/
def State.FrameStack (s t : State) : Prop := t = { s with sp := t.sp, stack := t.stack, pc := t.pc } ∧ s.SameMemory t

/-- Nothing but `VF`'s file, the framebuffer, `dirty` and `pc` may differ. -/
def State.FrameDisplay (s t : State) : Prop :=
  t = { s with v := t.v, fb := t.fb, dirty := t.dirty, pc := t.pc } ∧ s.SameMemory t

/-- Nothing but memory and `pc` may differ. -/
def State.FrameStore (s t : State) : Prop := t = { s with mem := t.mem, pc := t.pc }

/-- Nothing but the fault latch may differ. -/
def State.FrameLatch (s t : State) : Prop := t = { s with fault := t.fault, halted := t.halted } ∧ s.SameMemory t

/-- The latch after a report: the first fault is kept (R174). -/
def State.latchAfter (s : State) (r : FaultRecord) : Option FaultRecord :=
  match s.fault with
  | some first => some first
  | none => some r

/-- The reduced addresses of `n` bytes stored from `I` upwards (R163, R41). -/
def State.stores (s : State) (n : Nat) (a : Word) : Prop := ∃ k, k < n ∧ reduce a = reduce (s.dataAddr k)

/-! ### The display -/

/-- The sprite of draw x, y, n has a set bit on the cell at row `r`, column `c` (R141, R144). -/
def State.covers (s : State) (x y : RegIx) (n : Nibble) (r c : Nat) : Prop :=
  ∃ row col, row < n.toNat ∧ col < 8 ∧ (s.readByte (s.dataAddr row)).getLsbD (7 - col) = true ∧
    r = ((s.reg y).toNat + row) % 32 ∧ c = ((s.reg x).toNat + col) % 64

end Sys2Proof.Machine

namespace Sys2Proof

open Machine

/-! ### Who may write what (R27) -/

/-- The six instructions that write `VF` as a side effect (R11). -/
def Instr.writesFlag : Instr → Bool
  | .addCarry _ _ | .subNotBorrow _ _ | .shiftRight _ _ | .subRevNotBorrow _ _ | .shiftLeft _ _ | .draw _ _ _ => true
  | .clearScreen | .ret | .jump _ | .call _ | .skipEqImm _ _ | .skipNeImm _ _ | .skipEqReg _ _ | .loadImm _ _
  | .addImm _ _ | .move _ _ | .or _ _ | .and _ _ | .xor _ _ | .skipNeReg _ _ | .loadIndex _ | .jumpOffset _
  | .randMask _ _ | .skipKeyPressed _ | .skipKeyNotPressed _ | .readDelay _ | .waitKey _ | .setDelay _
  | .setSound _ | .addIndex _ | .glyphAddress _ | .storeBcd _ | .regDump _ | .regLoad _ => false

/-- The registers an instruction names as its destination (R27): `V[x]`, or for reg-load the block `V[0]` to `V[x]`. -/
def Instr.namesDestination (i : Instr) (q : RegIx) : Bool :=
  match i with
  | .loadImm x _ | .addImm x _ | .move x _ | .or x _ | .and x _ | .xor x _ | .addCarry x _ | .subNotBorrow x _
  | .shiftRight x _ | .subRevNotBorrow x _ | .shiftLeft x _ | .randMask x _ | .readDelay x | .waitKey x => q == x
  | .regLoad x => q.toNat ≤ x.toNat
  | .clearScreen | .ret | .jump _ | .call _ | .skipEqImm _ _ | .skipNeImm _ _ | .skipEqReg _ _ | .skipNeReg _ _
  | .loadIndex _ | .jumpOffset _ | .draw _ _ _ | .skipKeyPressed _ | .skipKeyNotPressed _ | .setDelay _
  | .setSound _ | .addIndex _ | .glyphAddress _ | .storeBcd _ | .regDump _ => false

/-- The skip condition of the six skips (R71); no condition for any other instruction. -/
def Instr.skipCondition (i : Instr) (s : State) : Option Bool :=
  match i with
  | .skipEqImm x kk => some (s.reg x == kk)
  | .skipNeImm x kk => some (s.reg x != kk)
  | .skipEqReg x y => some (s.reg x == s.reg y)
  | .skipNeReg x y => some (s.reg x != s.reg y)
  | .skipKeyPressed x => some (s.keys.pressed (s.keyOperand x))
  | .skipKeyNotPressed x => some (!s.keys.pressed (s.keyOperand x))
  | .clearScreen | .ret | .jump _ | .call _ | .loadImm _ _ | .addImm _ _ | .move _ _ | .or _ _ | .and _ _ | .xor _ _
  | .addCarry _ _ | .subNotBorrow _ _ | .shiftRight _ _ | .subRevNotBorrow _ _ | .shiftLeft _ _ | .loadIndex _
  | .jumpOffset _ | .randMask _ _ | .draw _ _ _ | .readDelay _ | .waitKey _ | .setDelay _ | .setSound _
  | .addIndex _ | .glyphAddress _ | .storeBcd _ | .regDump _ | .regLoad _ => none

/-- The target of the four transfers (R71), when they do not fault; none for any other instruction. -/
def Instr.target (i : Instr) (s : State) : Option Word :=
  match i with
  | .ret => some s.top
  | .jump nnn => some (zextAddr nnn)
  | .call nnn => some (zextAddr nnn)
  | .jumpOffset nnn => some (zextAddr nnn + s.regWord 0)
  | .clearScreen | .skipEqImm _ _ | .skipNeImm _ _ | .skipEqReg _ _ | .loadImm _ _ | .addImm _ _ | .move _ _
  | .or _ _ | .and _ _ | .xor _ _ | .addCarry _ _ | .subNotBorrow _ _ | .shiftRight _ _ | .subRevNotBorrow _ _
  | .shiftLeft _ _ | .skipNeReg _ _ | .loadIndex _ | .randMask _ _ | .draw _ _ _ | .skipKeyPressed _
  | .skipKeyNotPressed _ | .readDelay _ | .waitKey _ | .setDelay _ | .setSound _ | .addIndex _ | .glyphAddress _
  | .storeBcd _ | .regDump _ | .regLoad _ => none

end Sys2Proof
end

