-- ==== Sys2Proof/Certificates/Slice0/Obligations.lean ====
section
/-! DEFINITION. The statements for the provers. "Completes" is said as `exec i s = .next t` with what `t` holds; frames
are the predicates of Safety.lean; arithmetic is said on numbers, as rule R8 (spec/00_scope.md) says it. The opcode
numbers in the decoding clauses are those of rules R61 and R66 (spec/30_encoding.md); but for load-imm, add-with-carry
and skip-eq-reg, whose words the source prints, the spec marks them as derived or as general knowledge (log entry 22). -/

open Sys2Proof Sys2Proof.Machine

/-! ### The step cycle -/

/-- R70, R60, R42 (spec/30_encoding.md, spec/20_memory.md): on a core that has not halted and does not wait, when the two
bytes at `pc` (high byte first, each address reduced apart) decode to `i`, the step is `exec i` on the state with the
Step event taken, and the host gets the instruction's outcome. -/
def Obligations.StepRunsDecodedInstruction : Prop :=
  ∀ (s : State) (i : Instr), s.nextEvent = .step → s.fetches →
    decode (wordOfBytes (s.readByte s.pc) (s.readByte (s.pc + 1))) = .op i →
    step s = exec i s.takeEvent ∧ nextResult s = .stepped (instrOutcome i s.takeEvent)

/-- R176 (spec/60_exceptions.md; D6, log entry 24): a Step on a halted core changes nothing and answers `Halted`, whatever
the mode. -/
def Obligations.HaltedStepChangesNothing : Prop :=
  ∀ s : State, s.nextEvent = .step → s.halted = true →
    step s = .next s.takeEvent ∧ nextResult s = .stepped .halted

/-- R154 (spec/43_keys_and_timers.md; D14, D15, log entries 3, 16): a Step in mode `AwaitingKey(r)` fetches nothing. With no
key pressed it changes nothing and answers `Waiting`; with a key pressed it stores a pressed key's index in `V[r]`,
advances `pc`, and runs. -/
def Obligations.WaitingStepRepeatsKeyTest : Prop :=
  ∀ (s : State) (r : RegIx), s.nextEvent = .step → s.halted = false → s.mode = .awaitingKey r →
    ((∀ k, s.keys.pressed k = false) → step s = .next s.takeEvent ∧ nextResult s = .stepped .waiting) ∧
    ((∃ k, s.keys.pressed k = true) → ∃ t k, step s = .next t ∧ nextResult s = .stepped (.ok false) ∧
      s.keys.pressed k = true ∧ t = { s.takeEvent with v := t.v, pc := s.pc + 2, mode := .running } ∧
      ∀ q, (t.reg q).toNat = if q = r then k.toNat else (s.reg q).toNat)

/-- R174, R175 (spec/60_exceptions.md; D5 to D7, log entries 2, 24): a Step that fetches an unrecognized word reports the
word and its `pc`, keeps the first report in the latch, and halts (policy `HALT`) or passes the word over (`SKIP`);
nothing else changes. -/
def Obligations.UnrecognizedWordIsReported : Prop :=
  ∀ s : State, s.nextEvent = .step → s.fetches → decode s.fetchWord = .unrecognized →
    ∃ t, step s = .next t ∧
      nextResult s = .stepped (.fault { kind := .unrecognizedOpcode, word := s.fetchWord, pc := s.pc }) ∧
      t.fault = s.latchAfter { kind := .unrecognizedOpcode, word := s.fetchWord, pc := s.pc } ∧
      (match s.params.unrecognizedPolicy with
        | .halt => t = { s.takeEvent with fault := t.fault, halted := true }
        | .skip => t = { s.takeEvent with fault := t.fault, pc := s.pc + 2 })

/-- R7 (spec/00_scope.md; log entry 7, the model's choice): every event, from every state, leaves a next state: the core's
own faults are latched in it and never stop the machine. Which instruction faults when is said by
`FaultsHaveTheirCauses`. -/
def Obligations.EveryStepHasNextState : Prop := ∀ s : State, ∃ t, step s = .next t

/-! ### Decoding -/

/-- R61 (d), R65 (spec/30_encoding.md): the words the source prints, and one word of each other family, written out from
their fields. -/
def Obligations.PrintedWordsDecode : Prop :=
  decodeBytes [0x60, 0x05, 0x61, 0x03] = .op (.loadImm 0 5) [0x61, 0x03] ∧
  decodeBytes [0x61, 0x03] = .op (.loadImm 1 3) [] ∧
  decode 0b1000_0000_0001_0100#16 = .op (.addCarry 0 1) ∧
  decode 0b0101_0001_0010_0011#16 = .op (.skipEqReg 1 2) ∧
  decode 0b0001_1010_1011_1100#16 = .op (.jump 0xABC) ∧
  decode 0b1101_0000_0001_0101#16 = .op (.draw 0 1 5) ∧
  decode 0b1110_1111_1010_0001#16 = .op (.skipKeyNotPressed 15) ∧
  decode 0b1111_0110_0011_0011#16 = .op (.storeBcd 6) ∧
  decode 0b0000_0000_0000_0000#16 = .unrecognized

/-- R62 (spec/30_encoding.md): the fields are the slices of the word the table gives, as unsigned numbers. -/
def Obligations.FieldsAreSlices : Prop :=
  ∀ w : Word, (fieldG w).toNat = w.toNat / 4096 ∧ (fieldX w).toNat = w.toNat / 256 % 16 ∧
    (fieldY w).toNat = w.toNat / 16 % 16 ∧ (fieldN w).toNat = w.toNat % 16 ∧
    (fieldKK w).toNat = w.toNat % 256 ∧ (fieldNNN w).toNat = w.toNat % 4096

/-- R64, R65 (spec/30_encoding.md): decoding the word of an instruction gives it back, with every operand at every value
its field admits. -/
def Obligations.DecodeEncodeRoundTrip : Prop := ∀ i : Instr, decode (encode i) = .op i

/-- R65, R68 (spec/30_encoding.md): a word that decodes is the word of its instruction, but for the low nibble of the two
register skips, which is not examined. -/
def Obligations.EncodeDecodeRoundTrip : Prop :=
  ∀ (w : Word) (i : Instr), decode w = .op i →
    encode i = if i.mnemonic.lowNibbleIgnored then w &&& 0xFFF0#16 else w

/-- R66 (spec/30_encoding.md): a word decodes to an instruction of a row exactly when, under the row's mask, it is the
row's match value; so no two rows overlap, and nothing outside the table decodes. -/
def Obligations.DecodeFollowsOpcodeMap : Prop :=
  ∀ (w : Word) (m : Mnemonic),
    (∃ i : Instr, decode w = .op i ∧ i.mnemonic = m) ↔ w &&& m.mask = m.pattern

/-- R67 (spec/30_encoding.md; D23, D34, log entry 20): the unrecognized words are exactly the listed ones. -/
def Obligations.UnrecognizedWordsAreListed : Prop :=
  ∀ w : Word, decode w = .unrecognized ↔
    (w.toNat / 4096 = 0x0 ∧ w.toNat ≠ 0x00E0 ∧ w.toNat ≠ 0x00EE) ∨
    (w.toNat / 4096 = 0x8 ∧ w.toNat % 16 ∈ [0x8, 0x9, 0xA, 0xB, 0xC, 0xD, 0xF]) ∨
    (w.toNat / 4096 = 0xE ∧ w.toNat % 256 ∉ [0x9E, 0xA1]) ∨
    (w.toNat / 4096 = 0xF ∧ w.toNat % 256 ∉ [0x07, 0x0A, 0x15, 0x18, 0x1E, 0x29, 0x33, 0x55, 0x65])

/-- R72, R62, R65, R68 (spec/30_encoding.md; D31, log entry 31; the ignored nibble of group 9: D24, log entry 20): an
instruction's text is well formed and assembles to its word; and all well-formed text assembles to a word that decodes
to the instruction with that text (the nibble a register skip may be given left out). -/
def Obligations.AssemblerAgreesWithDecoder : Prop :=
  (∀ i : Instr, i.text.wf = true ∧ assemble i.text = some (encode i)) ∧
  (∀ l : AsmLine, l.wf = true → ∃ w i, assemble l = some w ∧ decode w = .op i ∧ i.mnemonic = l.mnemonic ∧
    i.text.operands = if l.mnemonic.lowNibbleIgnored then l.operands.take 2 else l.operands)

/-! ### Reset -/

/-- R25, R210 (spec/10_state.md, spec/70_reset_and_hazards.md; D19, D33, log entries 4, 17): the state after `Reset`. -/
def Obligations.ResetStateValues : Prop :=
  (∀ q, State.reset.reg q = 0) ∧ State.reset.i = 0 ∧ State.reset.pc = 0x0200 ∧ State.reset.sp = 0 ∧
  (∀ j (hj : j < 16), State.reset.stack[j] = 0) ∧ State.reset.dt = 0 ∧ State.reset.st = 0 ∧
  (∀ a, State.reset.readByte a = if a.toNat % 4096 < 80 then glyphByte (a.toNat % 4096) else 0) ∧
  (∀ r c, State.reset.fb.cell r c = false) ∧ State.reset.dirty = false ∧
  (∀ k, State.reset.keys.pressed k = false) ∧ State.reset.mode = .running ∧
  State.reset.fault = none ∧ State.reset.halted = false

/-- R210 (spec/70_reset_and_hazards.md; D33, log entries 17, 32): the event `Reset`, from any state, leaves the state after
reset, with the model's own fields kept. -/
def Obligations.ResetEventRestoresReset : Prop :=
  ∀ s : State, s.nextEvent = .reset → ∃ t, step s = .next t ∧ nextResult s = .nothing ∧
    t = { State.reset with params := s.params, draws := s.draws, hostQueue := s.hostQueue.tail }

/-- R211 (spec/70_reset_and_hazards.md): with no program loaded, the first Step after `Reset` reports
`UnrecognizedOpcode(0x0000, 0x0200)`, under either policy. That memory there is zero is D19 (log entry 17), that
0x0000 is unrecognized R67 (D23, log entry 20), that the report is latched R174 (D6, log entry 24). -/
def Obligations.FirstStepWithoutProgramFaults : Prop :=
  ∀ p : Params, ∃ t, step { State.reset with params := p } = .next t ∧
    nextResult { State.reset with params := p } =
      .stepped (.fault { kind := .unrecognizedOpcode, word := 0x0000, pc := 0x0200 }) ∧
    t.fault = some { kind := .unrecognizedOpcode, word := 0x0000, pc := 0x0200 }

/-! ### Control transfer (spec/40_control_transfer.md) -/

/-- R91: jump nnn. A jump to its own address changes nothing. -/
def Obligations.JumpSetsPc : Prop :=
  ∀ (nnn : Addr12) (s : State), decode (encodeA 0x1 nnn) = .op (.jump nnn) ∧
    instrOutcome (.jump nnn) s = .ok false ∧
    (∃ t, exec (.jump nnn) s = .next t ∧ t.pc.toNat = nnn.toNat ∧ s.FramePc t) ∧
    (s.pc.toNat = nnn.toNat → exec (.jump nnn) s = .next s)

/-- R97: jump-offset nnn. The sum is not reduced to 12 bits, and the register is `V[0]`. -/
def Obligations.JumpOffsetAddsRegisterZero : Prop :=
  ∀ (nnn : Addr12) (s : State), decode (encodeA 0xB nnn) = .op (.jumpOffset nnn) ∧
    instrOutcome (.jumpOffset nnn) s = .ok false ∧
    ∃ t, exec (.jumpOffset nnn) s = .next t ∧ t.pc.toNat = nnn.toNat + (s.reg 0).toNat ∧ s.FramePc t

/-- R93, R94: the immediate skips. -/
def Obligations.ImmediateSkipsCompare : Prop :=
  ∀ (x : RegIx) (kk : Byte) (s : State),
    decode (encodeI 0x3 x kk) = .op (.skipEqImm x kk) ∧ decode (encodeI 0x4 x kk) = .op (.skipNeImm x kk) ∧
    instrOutcome (.skipEqImm x kk) s = .ok false ∧ instrOutcome (.skipNeImm x kk) s = .ok false ∧
    (∃ t, exec (.skipEqImm x kk) s = .next t ∧ s.FramePc t ∧
      t.pc.toNat = (if (s.reg x).toNat = kk.toNat then s.pc.toNat + 4 else s.pc.toNat + 2) % 65536) ∧
    (∃ t, exec (.skipNeImm x kk) s = .next t ∧ s.FramePc t ∧
      t.pc.toNat = (if (s.reg x).toNat ≠ kk.toNat then s.pc.toNat + 4 else s.pc.toNat + 2) % 65536)

/-- R95: skip-eq-reg, with every low nibble; `x = y` always skips. -/
def Obligations.SkipEqRegCompares : Prop :=
  ∀ (x y : RegIx) (n : Nibble) (s : State), decode (encodeR 0x5 x y n) = .op (.skipEqReg x y) ∧
    instrOutcome (.skipEqReg x y) s = .ok false ∧
    ∃ t, exec (.skipEqReg x y) s = .next t ∧ s.FramePc t ∧
      t.pc.toNat = (if (s.reg x).toNat = (s.reg y).toNat then s.pc.toNat + 4 else s.pc.toNat + 2) % 65536 ∧
      (x = y → t.pc.toNat = (s.pc.toNat + 4) % 65536)

/-- R96 (D24, log entry 20): skip-ne-reg, with every low nibble; `x = y` never skips. -/
def Obligations.SkipNeRegCompares : Prop :=
  ∀ (x y : RegIx) (n : Nibble) (s : State), decode (encodeR 0x9 x y n) = .op (.skipNeReg x y) ∧
    instrOutcome (.skipNeReg x y) s = .ok false ∧
    ∃ t, exec (.skipNeReg x y) s = .next t ∧ s.FramePc t ∧
      t.pc.toNat = (if (s.reg x).toNat ≠ (s.reg y).toNat then s.pc.toNat + 4 else s.pc.toNat + 2) % 65536 ∧
      (x = y → t.pc.toNat = (s.pc.toNat + 2) % 65536)

/-- R92 (D2, D3, log entries 9, 10): a call with fewer than 15 active frames pushes the address after it and goes to `nnn`;
a call with 15 raises `StackOverflow`, writes the latch only, keeps its first record, and halts (R173, R174, the spec's
decisions D5, D6, log entry 24). -/
def Obligations.CallPushesOrOverflows : Prop :=
  ∀ (nnn : Addr12) (s : State), decode (encodeA 0x2 nnn) = .op (.call nnn) ∧
    (s.sp.toNat < 15 → instrOutcome (.call nnn) s = .ok false ∧
      ∃ t, exec (.call nnn) s = .next t ∧ t.pc.toNat = nnn.toNat ∧ t.sp.toNat = s.sp.toNat + 1 ∧ s.FrameStack t ∧
        ∀ j (hj : j < 16), (t.stack[j]).toNat =
          if j = s.sp.toNat + 1 then (s.pc.toNat + 2) % 65536 else (s.stack[j]).toNat) ∧
    (s.sp.toNat = 15 →
      instrOutcome (.call nnn) s = .fault { kind := .stackOverflow, word := encodeA 0x2 nnn, pc := s.pc } ∧
      ∃ t, exec (.call nnn) s = .next t ∧ s.FrameLatch t ∧ t.halted = true ∧
        t.fault = s.latchAfter { kind := .stackOverflow, word := encodeA 0x2 nnn, pc := s.pc })

/-- R90 (D3, log entry 10): a return with an active frame goes to the popped address and erases nothing; with none it raises
`StackUnderflow`, writes the latch only, keeps its first record, and halts (R173, R174, the spec's decisions D5, D6, log
entry 24). -/
def Obligations.ReturnPopsOrUnderflows : Prop :=
  ∀ s : State, decode 0x00EE = .op .ret ∧
    (0 < s.sp.toNat → instrOutcome .ret s = .ok false ∧
      ∃ t, exec .ret s = .next t ∧ t.pc = s.stack[s.sp.toNat]'s.sp.isLt ∧ t.sp.toNat + 1 = s.sp.toNat ∧
        t.stack = s.stack ∧ s.FrameStack t) ∧
    (s.sp.toNat = 0 →
      instrOutcome .ret s = .fault { kind := .stackUnderflow, word := 0x00EE, pc := s.pc } ∧
      ∃ t, exec .ret s = .next t ∧ s.FrameLatch t ∧ t.halted = true ∧
        t.fault = s.latchAfter { kind := .stackUnderflow, word := 0x00EE, pc := s.pc })

/-- R90, R92 (C6, D3, log entry 10): the net effect of a call and its return, whatever ran between them as long as it left
`SP` and the call's stack entry as they were: execution goes on at the call's address plus 2, once, with the stack
pointer as before the call; the return changes `SP` and `pc` only. -/
def Obligations.ReturnResumesAfterCall : Prop :=
  ∀ (nnn : Addr12) (s t u : State), exec (.call nnn) s = .next t → s.sp.toNat < 15 →
    u.sp = t.sp → u.top = t.top →
    ∃ w, exec .ret u = .next w ∧ w.pc.toNat = (s.pc.toNat + 2) % 65536 ∧ w.sp = s.sp ∧ w.stack = u.stack ∧
      u.FrameStack w

/-! ### Loads and arithmetic (spec/41_load_and_alu.md) -/

/-- R110: load-imm. -/
def Obligations.LoadImmSetsRegister : Prop :=
  ∀ (x : RegIx) (kk : Byte) (s : State), decode (encodeI 0x6 x kk) = .op (.loadImm x kk) ∧
    instrOutcome (.loadImm x kk) s = .ok false ∧
    ∃ t, exec (.loadImm x kk) s = .next t ∧ s.FrameRegs t ∧ t.pc.toNat = (s.pc.toNat + 2) % 65536 ∧
      ∀ q, t.reg q = if q = x then kk else s.reg q

/-- R111 (D10, log entry 12): add-imm wraps and writes no flag. -/
def Obligations.AddImmWraps : Prop :=
  ∀ (x : RegIx) (kk : Byte) (s : State), decode (encodeI 0x7 x kk) = .op (.addImm x kk) ∧
    instrOutcome (.addImm x kk) s = .ok false ∧
    ∃ t, exec (.addImm x kk) s = .next t ∧ s.FrameRegs t ∧ t.pc.toNat = (s.pc.toNat + 2) % 65536 ∧
      ∀ q, (t.reg q).toNat = if q = x then ((s.reg x).toNat + kk.toNat) % 256 else (s.reg q).toNat

/-- R113 to R116 (D10, log entry 12): move and the bitwise operations, bit by bit; no flag is written. -/
def Obligations.MoveAndBitwiseOperations : Prop :=
  ∀ (x y : RegIx) (s : State),
    (decode (encodeR 0x8 x y 0x0) = .op (.move x y) ∧ instrOutcome (.move x y) s = .ok false ∧
      ∃ t, exec (.move x y) s = .next t ∧ s.FrameRegs t ∧ t.pc.toNat = (s.pc.toNat + 2) % 65536 ∧
        ∀ q b, (t.reg q).getLsbD b = if q = x then (s.reg y).getLsbD b else (s.reg q).getLsbD b) ∧
    (decode (encodeR 0x8 x y 0x1) = .op (.or x y) ∧ instrOutcome (.or x y) s = .ok false ∧
      ∃ t, exec (.or x y) s = .next t ∧ s.FrameRegs t ∧ t.pc.toNat = (s.pc.toNat + 2) % 65536 ∧
        ∀ q b, (t.reg q).getLsbD b =
          if q = x then (s.reg x).getLsbD b || (s.reg y).getLsbD b else (s.reg q).getLsbD b) ∧
    (decode (encodeR 0x8 x y 0x2) = .op (.and x y) ∧ instrOutcome (.and x y) s = .ok false ∧
      ∃ t, exec (.and x y) s = .next t ∧ s.FrameRegs t ∧ t.pc.toNat = (s.pc.toNat + 2) % 65536 ∧
        ∀ q b, (t.reg q).getLsbD b =
          if q = x then (s.reg x).getLsbD b && (s.reg y).getLsbD b else (s.reg q).getLsbD b) ∧
    (decode (encodeR 0x8 x y 0x3) = .op (.xor x y) ∧ instrOutcome (.xor x y) s = .ok false ∧
      ∃ t, exec (.xor x y) s = .next t ∧ s.FrameRegs t ∧ t.pc.toNat = (s.pc.toNat + 2) % 65536 ∧
        ∀ q b, (t.reg q).getLsbD b =
          if q = x then (s.reg x).getLsbD b != (s.reg y).getLsbD b else (s.reg q).getLsbD b)

/-- R117, R112 (D9, log entry 11): add-with-carry, for every choice of `x` and `y`: `VF` ends as the carry. -/
def Obligations.AddWithCarryResultAndFlag : Prop :=
  ∀ (x y : RegIx) (s : State), decode (encodeR 0x8 x y 0x4) = .op (.addCarry x y) ∧
    instrOutcome (.addCarry x y) s = .ok false ∧
    ∃ t, exec (.addCarry x y) s = .next t ∧ s.FrameRegs t ∧ t.pc.toNat = (s.pc.toNat + 2) % 65536 ∧
      ∀ q, (t.reg q).toNat =
        if q = 0xF then (if (s.reg x).toNat + (s.reg y).toNat > 255 then 1 else 0)
        else if q = x then ((s.reg x).toNat + (s.reg y).toNat) % 256
        else (s.reg q).toNat

/-- R118, R120, R112 (D9, log entry 11): the two subtracts, for every choice of `x` and `y`: `VF` ends as "not borrow". -/
def Obligations.SubtractsResultAndFlag : Prop :=
  ∀ (x y : RegIx) (s : State),
    (decode (encodeR 0x8 x y 0x5) = .op (.subNotBorrow x y) ∧ instrOutcome (.subNotBorrow x y) s = .ok false ∧
      ∃ t, exec (.subNotBorrow x y) s = .next t ∧ s.FrameRegs t ∧ t.pc.toNat = (s.pc.toNat + 2) % 65536 ∧
        ∀ q, (t.reg q).toNat =
          if q = 0xF then (if (s.reg x).toNat ≥ (s.reg y).toNat then 1 else 0)
          else if q = x then ((s.reg x).toNat + 256 - (s.reg y).toNat) % 256
          else (s.reg q).toNat) ∧
    (decode (encodeR 0x8 x y 0x7) = .op (.subRevNotBorrow x y) ∧ instrOutcome (.subRevNotBorrow x y) s = .ok false ∧
      ∃ t, exec (.subRevNotBorrow x y) s = .next t ∧ s.FrameRegs t ∧ t.pc.toNat = (s.pc.toNat + 2) % 65536 ∧
        ∀ q, (t.reg q).toNat =
          if q = 0xF then (if (s.reg y).toNat ≥ (s.reg x).toNat then 1 else 0)
          else if q = x then ((s.reg y).toNat + 256 - (s.reg x).toNat) % 256
          else (s.reg q).toNat)

/-- R119, R121, R112 (D8, D9, log entries 1, 11): the two shifts, under both settings of `SHIFT_SOURCE`. -/
def Obligations.ShiftsResultAndFlag : Prop :=
  ∀ (x y src : RegIx) (s : State), src = (match s.params.shiftSource with | .vy => y | .vx => x) →
    (decode (encodeR 0x8 x y 0x6) = .op (.shiftRight x y) ∧ instrOutcome (.shiftRight x y) s = .ok false ∧
      ∃ t, exec (.shiftRight x y) s = .next t ∧ s.FrameRegs t ∧ t.pc.toNat = (s.pc.toNat + 2) % 65536 ∧
        ∀ q, (t.reg q).toNat =
          if q = 0xF then (s.reg src).toNat % 2
          else if q = x then (s.reg src).toNat / 2
          else (s.reg q).toNat) ∧
    (decode (encodeR 0x8 x y 0xE) = .op (.shiftLeft x y) ∧ instrOutcome (.shiftLeft x y) s = .ok false ∧
      ∃ t, exec (.shiftLeft x y) s = .next t ∧ s.FrameRegs t ∧ t.pc.toNat = (s.pc.toNat + 2) % 65536 ∧
        ∀ q, (t.reg q).toNat =
          if q = 0xF then (s.reg src).toNat / 128
          else if q = x then (s.reg src).toNat * 2 % 256
          else (s.reg q).toNat)

/-- R122: load-index. -/
def Obligations.LoadIndexSetsI : Prop :=
  ∀ (nnn : Addr12) (s : State), decode (encodeA 0xA nnn) = .op (.loadIndex nnn) ∧
    instrOutcome (.loadIndex nnn) s = .ok false ∧
    ∃ t, exec (.loadIndex nnn) s = .next t ∧ s.FrameIndex t ∧ t.pc.toNat = (s.pc.toNat + 2) % 65536 ∧
      t.i.toNat = nnn.toNat

/-- R123, R143 (D10, D12, D22, log entries 12, 14, 19): add-index wraps at 16 bits; glyph-address multiplies the whole
register by 5; neither writes a flag. -/
def Obligations.IndexArithmetic : Prop :=
  ∀ (x : RegIx) (s : State),
    (decode (encodeI 0xF x 0x1E) = .op (.addIndex x) ∧ instrOutcome (.addIndex x) s = .ok false ∧
      ∃ t, exec (.addIndex x) s = .next t ∧ s.FrameIndex t ∧ t.pc.toNat = (s.pc.toNat + 2) % 65536 ∧
        t.i.toNat = (s.i.toNat + (s.reg x).toNat) % 65536) ∧
    (decode (encodeI 0xF x 0x29) = .op (.glyphAddress x) ∧ instrOutcome (.glyphAddress x) s = .ok false ∧
      ∃ t, exec (.glyphAddress x) s = .next t ∧ s.FrameIndex t ∧ t.pc.toNat = (s.pc.toNat + 2) % 65536 ∧
        t.i.toNat = (s.reg x).toNat * 5)

/-- R124: rand-mask stores the random byte under the mask, bit by bit. The random byte is the free value `Config.rnd`
(log entry 5), of which nothing is known; the count of bytes taken advances. -/
def Obligations.RandMaskMasksRandomByte : Prop :=
  ∀ (x : RegIx) (kk : Byte) (s : State), decode (encodeI 0xC x kk) = .op (.randMask x kk) ∧
    instrOutcome (.randMask x kk) s = .ok false ∧
    ∃ t, exec (.randMask x kk) s = .next t ∧ t = { s with v := t.v, pc := t.pc, draws := s.draws + 1 } ∧
      s.SameMemory t ∧ t.pc.toNat = (s.pc.toNat + 2) % 65536 ∧
      ∀ q b, (t.reg q).getLsbD b =
        if q = x then (Config.rnd s.draws).getLsbD b && kk.getLsbD b else (s.reg q).getLsbD b

/-! ### Display (spec/42_display.md) -/

/-- R140 (C8, log entry 26): clear-screen zeroes every cell and marks the buffer dirty, even a blank one; the first `FramebufferRead` after it
returns an all-zero grid with the flag set, the second with the flag clear. -/
def Obligations.ClearScreenBlanksAndMarksDirty : Prop :=
  ∀ s : State, decode 0x00E0 = .op .clearScreen ∧ instrOutcome .clearScreen s = .ok true ∧
    ∃ t, exec .clearScreen s = .next t ∧ s.FrameDisplay t ∧ t.v = s.v ∧ t.dirty = true ∧
      t.pc.toNat = (s.pc.toNat + 2) % 65536 ∧ (∀ r c, t.fb.cell r c = false) ∧
      eventResult .framebufferRead t = .frame t.fb true ∧
      ∃ u, perform .framebufferRead t = .next u ∧ u.fb = t.fb ∧ eventResult .framebufferRead u = .frame t.fb false

/-- R141, R142 (c), R144 (D11, D25, log entries 13, 21): draw, cell by cell: a cell is toggled exactly when a set sprite
bit lands on it; `VF` is 1 exactly when such a cell was set; `I` and memory are unchanged. -/
def Obligations.DrawTogglesCoveredCells : Prop :=
  ∀ (x y : RegIx) (n : Nibble) (s : State), decode (encodeR 0xD x y n) = .op (.draw x y n) ∧
    instrOutcome (.draw x y n) s = .ok true ∧
    ∃ t, exec (.draw x y n) s = .next t ∧ s.FrameDisplay t ∧ t.dirty = true ∧
      t.pc.toNat = (s.pc.toNat + 2) % 65536 ∧
      (∀ r c, r < 32 → c < 64 → (s.covers x y n r c → t.fb.cell r c = !(s.fb.cell r c)) ∧
        (¬ s.covers x y n r c → t.fb.cell r c = s.fb.cell r c)) ∧
      (∀ q, q ≠ 0xF → t.reg q = s.reg q) ∧
      ((∃ r c, r < 32 ∧ c < 64 ∧ s.covers x y n r c ∧ s.fb.cell r c = true) → t.reg 0xF = 1) ∧
      (¬ (∃ r c, r < 32 ∧ c < 64 ∧ s.covers x y n r c ∧ s.fb.cell r c = true) → t.reg 0xF = 0)

/-- R142 (f): drawing the same sprite a second time at the same coordinates (those two registers still hold them, memory
and `I` are as they were) restores the framebuffer, and `VF` is then 1 exactly when the first draw turned some cell
from 0 to 1. -/
def Obligations.DrawTwiceRestoresFramebuffer : Prop :=
  ∀ (x y : RegIx) (n : Nibble) (s t u : State), exec (.draw x y n) s = .next t →
    u.fb = t.fb → u.i = s.i → u.reg x = s.reg x → u.reg y = s.reg y → s.SameMemory u →
    ∃ w, exec (.draw x y n) u = .next w ∧ w.fb = s.fb ∧
      (w.reg 0xF = 1 ∨ w.reg 0xF = 0) ∧
      (w.reg 0xF = 1 ↔ ∃ r c, r < 32 ∧ c < 64 ∧ s.fb.cell r c = false ∧ t.fb.cell r c = true)

/-- R145: `FramebufferRead` returns the grid and the flag, and clears the flag only. -/
def Obligations.FramebufferReadClearsDirty : Prop :=
  ∀ s : State, s.nextEvent = .framebufferRead →
    step s = .next { s.takeEvent with dirty := false } ∧ nextResult s = .frame s.fb s.dirty

/-- R146 (D29, log entry 26): after any Step, `dirty` is its old value or the Step's `redraw`. -/
def Obligations.DirtyAccumulatesRedraw : Prop :=
  ∀ s t : State, perform .step s = .next t → t.dirty = (s.dirty || (stepOutcome s).redraw)

/-! ### Keys and timers (spec/43_keys_and_timers.md) -/

/-- R150, R151 (D13, log entry 15): the key skips test key `V[x] mod 16`. -/
def Obligations.KeySkipsTestLatch : Prop :=
  ∀ (x : RegIx) (s : State) (k : KeyIx), k.toNat = (s.reg x).toNat % 16 →
    (decode (encodeI 0xE x 0x9E) = .op (.skipKeyPressed x) ∧ instrOutcome (.skipKeyPressed x) s = .ok false ∧
      ∃ t, exec (.skipKeyPressed x) s = .next t ∧ s.FramePc t ∧
        t.pc.toNat = (if s.keys.pressed k = true then s.pc.toNat + 4 else s.pc.toNat + 2) % 65536) ∧
    (decode (encodeI 0xE x 0xA1) = .op (.skipKeyNotPressed x) ∧ instrOutcome (.skipKeyNotPressed x) s = .ok false ∧
      ∃ t, exec (.skipKeyNotPressed x) s = .next t ∧ s.FramePc t ∧
        t.pc.toNat = (if s.keys.pressed k = false then s.pc.toNat + 4 else s.pc.toNat + 2) % 65536)

/-- R153 (D14, log entries 3, 16): wait-key with a key pressed stores a pressed key's index and advances; with none it only
enters the waiting mode. -/
def Obligations.WaitKeyTakesOrWaits : Prop :=
  ∀ (x : RegIx) (s : State), decode (encodeI 0xF x 0x0A) = .op (.waitKey x) ∧
    ((∃ k, s.keys.pressed k = true) → instrOutcome (.waitKey x) s = .ok false ∧
      ∃ t k, exec (.waitKey x) s = .next t ∧ s.keys.pressed k = true ∧ s.FrameRegs t ∧
        t.pc.toNat = (s.pc.toNat + 2) % 65536 ∧
        ∀ q, (t.reg q).toNat = if q = x then k.toNat else (s.reg q).toNat) ∧
    ((∀ k, s.keys.pressed k = false) → instrOutcome (.waitKey x) s = .waiting ∧
      exec (.waitKey x) s = .next { s with mode := .awaitingKey x })

/-- R6, R153 (D14, log entry 3): the key selected is a pressed one under either setting; under the default it is the
lowest; with one key pressed it is that key. -/
def Obligations.SelectedKeyIsPressed : Prop :=
  ∀ (keys : Keys) (how : KeySelect) (k : KeyIx), keys.pressed k = true →
    keys.pressed (keys.select how) = true ∧ (keys.select .lowest).toNat ≤ k.toNat ∧
    ((∀ j, keys.pressed j = true → j = k) → keys.select how = k)

/-- R152, R155, R156: the timer instructions. -/
def Obligations.TimerInstructionsCopy : Prop :=
  ∀ (x : RegIx) (s : State),
    (decode (encodeI 0xF x 0x07) = .op (.readDelay x) ∧ instrOutcome (.readDelay x) s = .ok false ∧
      ∃ t, exec (.readDelay x) s = .next t ∧ s.FrameRegs t ∧ t.pc.toNat = (s.pc.toNat + 2) % 65536 ∧
        ∀ q, t.reg q = if q = x then s.dt else s.reg q) ∧
    (decode (encodeI 0xF x 0x15) = .op (.setDelay x) ∧ instrOutcome (.setDelay x) s = .ok false ∧
      ∃ t, exec (.setDelay x) s = .next t ∧ t = { s with dt := s.reg x, pc := t.pc } ∧ s.SameMemory t ∧
        t.pc.toNat = (s.pc.toNat + 2) % 65536) ∧
    (decode (encodeI 0xF x 0x18) = .op (.setSound x) ∧ instrOutcome (.setSound x) s = .ok false ∧
      ∃ t, exec (.setSound x) s = .next t ∧ t = { s with st := s.reg x, pc := t.pc } ∧ s.SameMemory t ∧
        t.pc.toNat = (s.pc.toNat + 2) % 65536)

/-- R185, R186, R184 (D17, log entry 27): `Tick` counts each timer down by one, each on its own, stopping at 0, and changes nothing else;
halted and waiting cores too. -/
def Obligations.TickCountsTimersDown : Prop :=
  ∀ s : State, s.nextEvent = .tick → ∃ t, step s = .next t ∧ nextResult s = .nothing ∧
    t = { s.takeEvent with dt := t.dt, st := t.st } ∧
    t.dt.toNat = s.dt.toNat - 1 ∧ t.st.toNat = s.st.toNat - 1

/-- R189 (D32, log entry 35): `KeyEvent` sets one key of the latch and changes nothing else. -/
def Obligations.KeyEventSetsOneKey : Prop :=
  ∀ (s : State) (k : KeyIx) (pressed : Bool), s.nextEvent = .keyEvent k pressed →
    ∃ t, step s = .next t ∧ nextResult s = .nothing ∧ t = { s.takeEvent with keys := t.keys } ∧
      ∀ j, t.keys.pressed j = if j = k then pressed else s.keys.pressed j

/-! ### Memory (spec/20_memory.md, spec/44_memory_transfer.md) -/

/-- R41, R46, R47: a byte read after a byte stored, with both addresses taken modulo 4096; a store changes nothing but that
byte. -/
def Obligations.StoredByteIsReadBack : Prop :=
  ∀ (s : State) (a b : Word) (v : Byte),
    ((s.writeByte a v).readByte b = if b.toNat % 4096 = a.toNat % 4096 then v else s.readByte b) ∧
    s.writeByte a v = { s with mem := (s.writeByte a v).mem }

/-- R60, R42 (D35, log entry 33): the fetched word is the byte at `pc mod 4096` in the high half and the byte at `(pc + 1) mod 4096` in the low
half; `pc` and `pc + 4096` fetch the same word. -/
def Obligations.FetchIsBigEndian : Prop :=
  ∀ s : State, s.fetchWord.toNat =
      (s.mem.read (s.pc.toNat % 4096)).toNat * 256 + (s.mem.read ((s.pc.toNat + 1) % 4096)).toNat ∧
    { s with pc := s.pc + 4096 }.fetchWord = s.fetchWord

/-- R55: a word stored at the address of the next fetch, in the order of its bytes, is the word fetched. -/
def Obligations.StoreIsSeenByNextFetch : Prop :=
  ∀ (s : State) (w : Word), ((s.writeByte s.pc (highByte w)).writeByte (s.pc + 1) (lowByte w)).fetchWord = w

/-- R160 (D11, D20, log entries 13, 18): store-bcd: three digits at `I`, `I + 1`, `I + 2`, each address reduced apart; every other byte, and all else,
unchanged. -/
def Obligations.StoreBcdWritesThreeDigits : Prop :=
  ∀ (x : RegIx) (s : State), decode (encodeI 0xF x 0x33) = .op (.storeBcd x) ∧
    instrOutcome (.storeBcd x) s = .ok false ∧
    ∃ t, exec (.storeBcd x) s = .next t ∧ s.FrameStore t ∧ t.pc.toNat = (s.pc.toNat + 2) % 65536 ∧
      (t.readByte (s.dataAddr 0)).toNat = (s.reg x).toNat / 100 ∧
      (t.readByte (s.dataAddr 1)).toNat = (s.reg x).toNat / 10 % 10 ∧
      (t.readByte (s.dataAddr 2)).toNat = (s.reg x).toNat % 10 ∧
      ∀ a, ¬ s.stores 3 a → t.readByte a = s.readByte a

/-- R161 (D11, D20, log entries 13, 18): reg-dump: `V[k]` at `(I + k) mod 4096` for `k` from 0 to `x`; every other byte, and all else, unchanged. -/
def Obligations.RegDumpStoresBlock : Prop :=
  ∀ (x : RegIx) (s : State), decode (encodeI 0xF x 0x55) = .op (.regDump x) ∧
    instrOutcome (.regDump x) s = .ok false ∧
    ∃ t, exec (.regDump x) s = .next t ∧ s.FrameStore t ∧ t.pc.toNat = (s.pc.toNat + 2) % 65536 ∧
      (∀ k : RegIx, k.toNat ≤ x.toNat → t.readByte (s.dataAddr k.toNat) = s.reg k) ∧
      ∀ a, ¬ s.stores (x.toNat + 1) a → t.readByte a = s.readByte a

/-- R162 (D11, log entry 13): reg-load: `V[k]` from `(I + k) mod 4096` for `k` from 0 to `x`, registers above `x` and all else unchanged; and
after a dump by the same `x` and `I` it restores the registers the dump stored. -/
def Obligations.RegLoadReadsBlockAndUndoesDump : Prop :=
  ∀ (x : RegIx) (s : State), decode (encodeI 0xF x 0x65) = .op (.regLoad x) ∧
    instrOutcome (.regLoad x) s = .ok false ∧
    (∃ t, exec (.regLoad x) s = .next t ∧ s.FrameRegs t ∧ t.pc.toNat = (s.pc.toNat + 2) % 65536 ∧
      ∀ q : RegIx, t.reg q = if q.toNat ≤ x.toNat then s.readByte (s.dataAddr q.toNat) else s.reg q) ∧
    (∀ d u : State, exec (.regDump x) s = .next d → d.SameMemory u → u.i = s.i →
      ∃ w, exec (.regLoad x) u = .next w ∧ ∀ q : RegIx, q.toNat ≤ x.toNat → w.reg q = s.reg q)

/-- R52 (D27, log entry 23): `LoadProgram` copies at most 3584 bytes from 0x200 upwards and touches nothing else; a longer
program is answered `ProgramTooLarge` and changes nothing. -/
def Obligations.LoadProgramCopiesOrRefuses : Prop :=
  ∀ (s : State) (bytes : List Byte), s.nextEvent = .loadProgram bytes →
    (bytes.length ≤ 3584 → nextResult s = .loaded .ok ∧
      ∃ t, step s = .next t ∧ t = { s.takeEvent with mem := t.mem } ∧
        (∀ k (hk : k < bytes.length), t.readByte (BitVec.ofNat 16 (0x200 + k)) = bytes[k]) ∧
        ∀ a, ¬ (0x200 ≤ a.toNat % 4096 ∧ a.toNat % 4096 < 0x200 + bytes.length) → t.readByte a = s.readByte a) ∧
    (3584 < bytes.length → nextResult s = .loaded .programTooLarge ∧ step s = .next s.takeEvent)

/-! ### Rules of the whole machine -/

/-- R11 (spec/10_state.md; D10, log entry 12): a register changes only under an instruction that names it as a
destination, or, `VF`, under one of the six flag-writing instructions, which leave it 0 or 1. -/
def Obligations.RegistersChangeOnlyAsDestination : Prop :=
  ∀ (i : Instr) (s t : State), exec i s = .next t →
    (∀ q, i.namesDestination q = false → (q = 0xF → i.writesFlag = false) → t.reg q = s.reg q) ∧
    (i.writesFlag = true → t.reg 0xF = 0 ∨ t.reg 0xF = 1)

/-- R14, R15 (spec/10_state.md; D4, log entry 9): the stack pointer moves by one exactly with call and return and never
wraps; the stack is written by call only, and never at entry 0. -/
def Obligations.StackPointerInLockstep : Prop :=
  ∀ (i : Instr) (s t : State), exec i s = .next t →
    (t.sp = s.sp ∨ (∃ nnn, i = .call nnn ∧ t.sp.toNat = s.sp.toNat + 1) ∨
      (i = .ret ∧ t.sp.toNat + 1 = s.sp.toNat)) ∧
    (t.stack = s.stack ∨ ∃ nnn, i = .call nnn) ∧ t.stack[0] = s.stack[0]

/-- R27, R19, R47 (spec/10_state.md, spec/20_memory.md): memory is written by store-bcd and reg-dump only, the framebuffer
and `dirty` by clear-screen and draw only, `I` by three instructions only (that draw and the memory transfers keep it is
the spec's decision D11, log entry 13), the timers by set-delay and set-sound only, the mode by wait-key only, and the
key latch by no instruction. -/
def Obligations.StateWritersAreListed : Prop :=
  ∀ (i : Instr) (s t : State), exec i s = .next t →
    (t.mem = s.mem ∨ (∃ x, i = .storeBcd x) ∨ ∃ x, i = .regDump x) ∧
    (t.fb = s.fb ∧ t.dirty = s.dirty ∨ i = .clearScreen ∨ ∃ x y n, i = .draw x y n) ∧
    (t.i = s.i ∨ (∃ nnn, i = .loadIndex nnn) ∨ (∃ x, i = .addIndex x) ∨ ∃ x, i = .glyphAddress x) ∧
    (t.dt = s.dt ∨ ∃ x, i = .setDelay x) ∧ (t.st = s.st ∨ ∃ x, i = .setSound x) ∧
    (t.mode = s.mode ∨ ∃ x, i = .waitKey x) ∧ t.keys = s.keys

/-- R71 (spec/30_encoding.md): the program counter update, case by case: a fault and a wait do not write `pc` (the fault: R173,
D5, log entry 24), a skip adds 4 or 2 by its condition, a transfer writes its target, every other instruction adds 2;
a waiting Step adds 2 when a key is pressed (R154, D15, log entry 16); an unrecognized word is passed over under `SKIP`
(R175, D7, log entry 2). -/
def Obligations.ProgramCounterUpdate : Prop :=
  (∀ (i : Instr) (s t : State), exec i s = .next t →
    (match instrOutcome i s, i.skipCondition s, i.target s with
      | .fault _, _, _ => t.pc = s.pc
      | .waiting, _, _ => t.pc = s.pc
      | _, some c, _ => t.pc.toNat = (s.pc.toNat + if c = true then 4 else 2) % 65536
      | _, none, some a => t.pc = a
      | _, none, none => t.pc.toNat = (s.pc.toNat + 2) % 65536)) ∧
  (∀ (s t : State) (r : RegIx), perform .step s = .next t → s.halted = false → s.mode = .awaitingKey r →
    ((∃ k, s.keys.pressed k = true) → t.pc.toNat = (s.pc.toNat + 2) % 65536) ∧
    ((∀ k, s.keys.pressed k = false) → t.pc = s.pc)) ∧
  (∀ s t : State, perform .step s = .next t → s.fetches → decode s.fetchWord = .unrecognized →
    (match s.params.unrecognizedPolicy with
      | .halt => t.pc = s.pc
      | .skip => t.pc.toNat = (s.pc.toNat + 2) % 65536))

/-- R171 (spec/60_exceptions.md): which Step can raise what (15 frames: D2, log entry 9): an unrecognized word `UnrecognizedOpcode`, a call
`StackOverflow` or nothing, a return `StackUnderflow` or nothing, and the other 32 instructions nothing. -/
def Obligations.FaultsHaveTheirCauses : Prop :=
  (∀ (s : State) (r : FaultRecord), s.fetches →
    (stepOutcome s = .fault r ↔
      r = { kind := r.kind, word := s.fetchWord, pc := s.pc } ∧
      (match r.kind with
        | .unrecognizedOpcode => decode s.fetchWord = .unrecognized
        | .stackOverflow => (∃ nnn, decode s.fetchWord = .op (.call nnn)) ∧ s.sp.toNat = 15
        | .stackUnderflow => decode s.fetchWord = .op .ret ∧ s.sp.toNat = 0))) ∧
  (∀ (i : Instr) (s t : State), (∀ nnn, i ≠ .call nnn) → i ≠ .ret → exec i s = .next t →
    t.fault = s.fault ∧ t.halted = s.halted)

/-- R172 to R175 (spec/60_exceptions.md; D5, D6, D7, log entries 2, 24): a Step that faults latches its report unless one is
latched, halts the core unless the fault is an unrecognized word under `SKIP`, and writes nothing else (but `pc` then);
a Step that does not fault leaves the latch alone. -/
def Obligations.FaultingStepIsPrecise : Prop :=
  ∀ s t : State, perform .step s = .next t →
    (∀ r, stepOutcome s = .fault r →
      t.fault = s.latchAfter r ∧ r.pc = s.pc ∧ r.word = s.fetchWord ∧
      (if r.kind = .unrecognizedOpcode ∧ s.params.unrecognizedPolicy = .skip
        then t = { s with fault := t.fault, pc := s.pc + 2 }
        else t = { s with fault := t.fault, halted := true })) ∧
    ((∀ r, stepOutcome s ≠ .fault r) → t.fault = s.fault ∧ t.halted = s.halted)

/-- R174, R176 (spec/60_exceptions.md; D6, log entry 24): only `Reset` clears the fault latch: no other event changes a
latched record or sets a halted core going. -/
def Obligations.OnlyResetClearsLatch : Prop :=
  ∀ s t : State, step s = .next t → s.nextEvent ≠ .reset →
    (s.fault ≠ none → t.fault = s.fault) ∧ (s.halted = true → t.halted = true)

/-- R213 (b) (spec/70_reset_and_hazards.md; D36, log entry 34): at a normal end of a run every further Step leaves all
state unchanged, so the end stays an end. -/
def Obligations.JumpToSelfIsAnEnd : Prop :=
  ∀ s : State, s.endedNormally → s.nextEvent = .step →
    step s = .next s.takeEvent ∧ s.takeEvent.endedNormally ∧ nextResult s = .stepped (.ok false)

/-- The invariant holds after reset (R25), under every setting of the parameters. That memory has a canonical form is the
model's own choice (log entry 36); the halt and latch clauses are the spec's decisions D6 and D7 (R174, R175, log entries
2, 24). -/
def Obligations.ResetMeetsInvariant : Prop := ∀ p : Params, { State.reset with params := p }.Inv

/-- Every event keeps the invariant: canonical memory (the model's own representation, log entry 36), stack entry 0 never
written (R14), a sound fault latch (R170), and a core that has halted exactly as rules R174 and R175 say (D6, D7, log
entries 2, 24). -/
def Obligations.StepKeepsInvariant : Prop := ∀ s t : State, s.Inv → step s = .next t → t.Inv
end

