-- ==== Sys2Proof/Laws/Decode.lean ====
section
/-! SUPPORT. The encodings and the fields as numbers (R62, R64), so that `omega` decides facts about them, and each field
of an encoded word. -/

namespace Sys2Proof

theorem append_toNat {n m : Nat} (a : BitVec n) (b : BitVec m) : (a ++ b).toNat = a.toNat * 2 ^ m + b.toNat := by
  rw [BitVec.toNat_append, ← Nat.shiftLeft_add_eq_or_of_lt b.isLt, Nat.shiftLeft_eq]

theorem encodeA_toNat (g : BitVec 4) (nnn : Addr12) : (encodeA g nnn).toNat = g.toNat * 4096 + nnn.toNat := by
  rw [encodeA, append_toNat]; omega

theorem encodeI_toNat (g : BitVec 4) (x : RegIx) (kk : Byte) :
    (encodeI g x kk).toNat = g.toNat * 4096 + x.toNat * 256 + kk.toNat := by
  rw [encodeI, append_toNat, append_toNat]; omega

theorem encodeR_toNat (g : BitVec 4) (x y : RegIx) (n : Nibble) :
    (encodeR g x y n).toNat = g.toNat * 4096 + x.toNat * 256 + y.toNat * 16 + n.toNat := by
  rw [encodeR, append_toNat, append_toNat, append_toNat]; omega

theorem fieldG_toNat (w : Word) : (fieldG w).toNat = w.toNat / 4096 := by
  have := w.isLt
  simp [fieldG, Nat.shiftRight_eq_div_pow]; omega

theorem fieldX_toNat (w : Word) : (fieldX w).toNat = w.toNat / 256 % 16 := by
  simp [fieldX, Nat.shiftRight_eq_div_pow]

theorem fieldY_toNat (w : Word) : (fieldY w).toNat = w.toNat / 16 % 16 := by
  simp [fieldY, Nat.shiftRight_eq_div_pow]

theorem fieldN_toNat (w : Word) : (fieldN w).toNat = w.toNat % 16 := by simp [fieldN]

theorem fieldKK_toNat (w : Word) : (fieldKK w).toNat = w.toNat % 256 := by simp [fieldKK]

theorem fieldNNN_toNat (w : Word) : (fieldNNN w).toNat = w.toNat % 4096 := by simp [fieldNNN]

theorem wordOfBytes_toNat (a b : Byte) : (wordOfBytes a b).toNat = a.toNat * 256 + b.toNat := by
  rw [wordOfBytes, append_toNat]; omega

theorem highByte_toNat (w : Word) : (highByte w).toNat = w.toNat / 256 := by
  have := w.isLt
  simp [highByte, Nat.shiftRight_eq_div_pow]; omega

theorem lowByte_toNat (w : Word) : (lowByte w).toNat = w.toNat % 256 := by simp [lowByte]

/-- A word is the word of its two bytes (R42). -/
theorem wordOfBytes_highByte_lowByte (w : Word) : wordOfBytes (highByte w) (lowByte w) = w := by
  apply BitVec.eq_of_toNat_eq
  rw [wordOfBytes_toNat, highByte_toNat, lowByte_toNat]; omega

@[simp] theorem fieldG_encodeA (g : BitVec 4) (nnn : Addr12) : fieldG (encodeA g nnn) = g :=
  BitVec.eq_of_toNat_eq (by rw [fieldG_toNat, encodeA_toNat]; omega)

@[simp] theorem fieldNNN_encodeA (g : BitVec 4) (nnn : Addr12) : fieldNNN (encodeA g nnn) = nnn :=
  BitVec.eq_of_toNat_eq (by rw [fieldNNN_toNat, encodeA_toNat]; omega)

@[simp] theorem fieldG_encodeI (g : BitVec 4) (x : RegIx) (kk : Byte) : fieldG (encodeI g x kk) = g :=
  BitVec.eq_of_toNat_eq (by rw [fieldG_toNat, encodeI_toNat]; omega)

@[simp] theorem fieldX_encodeI (g : BitVec 4) (x : RegIx) (kk : Byte) : fieldX (encodeI g x kk) = x :=
  BitVec.eq_of_toNat_eq (by rw [fieldX_toNat, encodeI_toNat]; omega)

@[simp] theorem fieldKK_encodeI (g : BitVec 4) (x : RegIx) (kk : Byte) : fieldKK (encodeI g x kk) = kk :=
  BitVec.eq_of_toNat_eq (by rw [fieldKK_toNat, encodeI_toNat]; omega)

@[simp] theorem fieldG_encodeR (g : BitVec 4) (x y : RegIx) (n : Nibble) : fieldG (encodeR g x y n) = g :=
  BitVec.eq_of_toNat_eq (by rw [fieldG_toNat, encodeR_toNat]; omega)

@[simp] theorem fieldX_encodeR (g : BitVec 4) (x y : RegIx) (n : Nibble) : fieldX (encodeR g x y n) = x :=
  BitVec.eq_of_toNat_eq (by rw [fieldX_toNat, encodeR_toNat]; omega)

@[simp] theorem fieldY_encodeR (g : BitVec 4) (x y : RegIx) (n : Nibble) : fieldY (encodeR g x y n) = y :=
  BitVec.eq_of_toNat_eq (by rw [fieldY_toNat, encodeR_toNat]; omega)

@[simp] theorem fieldN_encodeR (g : BitVec 4) (x y : RegIx) (n : Nibble) : fieldN (encodeR g x y n) = n :=
  BitVec.eq_of_toNat_eq (by rw [fieldN_toNat, encodeR_toNat]; omega)

end Sys2Proof
end

