-- ==== Sys2Proof/Laws/Memory.lean ====
section
/-! SUPPORT. Memory: a read after a write, the canonical form kept by every memory operation, and the byte-sequence
operations said once. -/

namespace Sys2Proof.Machine

/-! ### One byte -/

theorem Memory.read_insert_same (a : Nat) (v : Byte) (m : Memory) (h : ∀ c ∈ m, c.1 ≠ a) :
    Memory.read (Memory.insert a v m) a = v := by
  induction m with
  | nil => simp [Memory.insert, Memory.read]
  | cons c m ih =>
    obtain ⟨b, u⟩ := c
    have hb : b ≠ a := h (b, u) (by simp)
    simp only [Memory.insert]
    split
    · simp [Memory.read]
    · simp only [Memory.read, hb, if_false]
      exact ih fun c hc => h c (by simp [hc])

theorem Memory.read_insert_other (a b : Nat) (v : Byte) (m : Memory) (h : b ≠ a) :
    Memory.read (Memory.insert a v m) b = Memory.read m b := by
  induction m with
  | nil => simp [Memory.insert, Memory.read, h.symm]
  | cons c m ih =>
    obtain ⟨d, u⟩ := c
    simp only [Memory.insert]
    split
    · simp [Memory.read, h.symm]
    · simp [Memory.read, ih]

theorem Memory.read_filter_other (a b : Nat) (m : Memory) (h : b ≠ a) :
    Memory.read (m.filter fun c => c.1 != a) b = Memory.read m b := by
  induction m with
  | nil => rfl
  | cons c m ih =>
    obtain ⟨d, u⟩ := c
    by_cases hd : d = a
    · subst hd; simp [Memory.read, ih, h.symm]
    · simp [Memory.read, hd, ih]

theorem Memory.read_absent (a : Nat) (m : Memory) (h : ∀ c ∈ m, c.1 ≠ a) : Memory.read m a = Memory.unlisted a := by
  induction m with
  | nil => rfl
  | cons c m ih =>
    obtain ⟨d, u⟩ := c
    have hd : d ≠ a := h (d, u) (by simp)
    simp only [Memory.read, hd, if_false]
    exact ih fun c hc => h c (by simp [hc])

/-- A read after a write: the byte written at that address, the old byte everywhere else (R46, R47). -/
theorem Memory.read_write (m : Memory) (a b : Nat) (v : Byte) :
    Memory.read (Memory.write m a v) b = if b = a then v else Memory.read m b := by
  have hfilter : ∀ c ∈ m.filter (fun c => c.1 != a), c.1 ≠ a := by simp [List.mem_filter]
  simp only [Memory.write]
  by_cases hb : b = a
  · subst hb
    split
    · rename_i hv; simp [Memory.read_absent _ _ hfilter, hv]
    · simp [Memory.read_insert_same _ _ _ hfilter]
  · split
    · rw [Memory.read_filter_other _ _ _ hb]
    · rw [Memory.read_insert_other _ _ _ _ hb, Memory.read_filter_other _ _ _ hb]

/-! ### The canonical form -/

theorem Memory.mem_insert (a : Nat) (v : Byte) (m : Memory) (c : Host.Cell) :
    c ∈ Memory.insert a v m ↔ c = (a, v) ∨ c ∈ m := by
  induction m with
  | nil => simp [Memory.insert]
  | cons d m ih =>
    simp only [Memory.insert]
    split
    · simp
    · simp only [List.mem_cons, ih]; tauto

theorem Memory.pairwise_insert (a : Nat) (v : Byte) (m : Memory)
    (hm : m.Pairwise (fun c d => c.1 < d.1)) (ha : ∀ c ∈ m, c.1 ≠ a) :
    (Memory.insert a v m).Pairwise (fun c d => c.1 < d.1) := by
  induction m with
  | nil => simp [Memory.insert]
  | cons d m ih =>
    obtain ⟨b, u⟩ := d
    rw [List.pairwise_cons] at hm
    have hb : b ≠ a := ha (b, u) (by simp)
    simp only [Memory.insert]
    split
    · rename_i hlt
      refine List.pairwise_cons.2 ⟨fun c hc => ?_, List.pairwise_cons.2 hm⟩
      rcases List.mem_cons.1 hc with rfl | hc
      · exact hlt
      · exact Nat.lt_trans hlt (hm.1 c hc)
    · rename_i hlt
      refine List.pairwise_cons.2 ⟨fun c hc => ?_, ih hm.2 fun c hc => ha c (by simp [hc])⟩
      rcases (Memory.mem_insert a v m c).1 hc with rfl | hc
      · change b < a; omega
      · exact hm.1 c hc

/-- Storing a byte keeps the canonical form. -/
theorem Memory.wf_write (m : Memory) (a : Nat) (v : Byte) (hm : m.wf) (ha : a < memSize) : (m.write a v).wf := by
  have hfilter : ∀ c ∈ m.filter (fun c => c.1 != a), c.1 ≠ a := by simp [List.mem_filter]
  have hrest : Memory.wf (m.filter fun c => c.1 != a) :=
    ⟨hm.1.filter _, fun c hc => hm.2 c (List.mem_filter.1 hc).1⟩
  simp only [Memory.write]
  split
  · exact hrest
  · rename_i hv
    refine ⟨Memory.pairwise_insert a v _ hrest.1 hfilter, fun c hc => ?_⟩
    rcases (Memory.mem_insert a v _ c).1 hc with rfl | hc
    · exact ⟨ha, hv⟩
    · exact hrest.2 c hc

theorem Memory.wf_nil : Memory.wf ([] : Memory) := ⟨List.Pairwise.nil, by simp⟩

theorem State.reset_mem_wf : State.reset.mem.wf := Memory.wf_nil

/-- The reduction as plain arithmetic, for `omega` (R41). -/
theorem reduce_eq (a : Word) : reduce a = a.toNat % 4096 := rfl

theorem reduce_lt (a : Word) : reduce a < memSize := Nat.mod_lt _ (by decide)

theorem State.wf_writeByte (s : State) (a : Word) (v : Byte) (h : s.mem.wf) : (s.writeByte a v).mem.wf :=
  Memory.wf_write _ _ _ h (reduce_lt a)

theorem State.wf_writeBytes (s : State) (a : Word) (bs : List Byte) (h : s.mem.wf) :
    (s.writeBytes a bs).mem.wf := by
  induction bs generalizing s a with
  | nil => exact h
  | cons b bs ih => exact ih _ _ (s.wf_writeByte a b h)

/-! ### Bytes and words through the state -/

/-- A byte read after a byte stored (R46, R47): addresses are compared reduced (R41). -/
theorem State.readByte_writeByte (s : State) (a b : Word) (v : Byte) :
    (s.writeByte a v).readByte b = if reduce b = reduce a then v else s.readByte b :=
  Memory.read_write _ _ _ _

/-- A sequence of bytes stored changes memory only. -/
theorem State.writeBytes_eq (s : State) (a : Word) (bs : List Byte) :
    s.writeBytes a bs = { s with mem := (s.writeBytes a bs).mem } := by
  induction bs generalizing s a with
  | nil => rfl
  | cons b bs ih => rw [State.writeBytes, ih]; rfl

/-- Two addresses fewer than 4096 apart meet the same cell only if they are the same (R47). -/
theorem reduce_add_inj (a : Word) (j k : Nat) (hj : j < 4096) (hk : k < 4096)
    (h : reduce (a + BitVec.ofNat 16 j) = reduce (a + BitVec.ofNat 16 k)) : j = k := by
  simp only [reduce, memSize, BitVec.toNat_add, BitVec.toNat_ofNat] at h
  omega

theorem add_ofNat_succ (a : Word) (k : Nat) : a + BitVec.ofNat 16 (k + 1) = a + 1 + BitVec.ofNat 16 k := by
  rw [Nat.add_comm, BitVec.ofNat_add, ← BitVec.add_assoc]; rfl

/-- What a sequence of at most 4096 stored bytes reads as afterwards: byte `k` at its own address. -/
theorem State.readByte_writeBytes_at (s : State) (a : Word) (bs : List Byte) (hn : bs.length ≤ 4096) (k : Nat)
    (hk : k < bs.length) : (s.writeBytes a bs).readByte (a + BitVec.ofNat 16 k) = bs[k] := by
  suffices h : ∀ (bs : List Byte) (s : State) (a : Word), bs.length ≤ 4096 →
      (∀ b, (∀ j, j < bs.length → reduce b ≠ reduce (a + BitVec.ofNat 16 j)) →
        (s.writeBytes a bs).readByte b = s.readByte b) ∧
      ∀ k (hk : k < bs.length), (s.writeBytes a bs).readByte (a + BitVec.ofNat 16 k) = bs[k] from
    (h bs s a hn).2 k hk
  intro bs
  induction bs with
  | nil => intro s a _; exact ⟨fun _ _ => rfl, fun k hk => absurd hk (by simp)⟩
  | cons c bs ih =>
    intro s a hn
    simp only [List.length_cons] at hn
    obtain ⟨hother, hat⟩ := ih (s.writeByte a c) (a + 1) (by omega)
    constructor
    · intro b hb
      rw [State.writeBytes, hother b fun j hj => by
        rw [← add_ofNat_succ]; exact hb (j + 1) (by simpa using hj)]
      rw [State.readByte_writeByte, if_neg]
      simpa using hb 0 (by simp)
    · intro k hk
      rw [State.writeBytes]
      cases k with
      | zero =>
        rw [hother _ fun j hj h => by
          rw [← add_ofNat_succ] at h
          exact absurd (reduce_add_inj a 0 (j + 1) (by omega) (by omega) h) (by omega)]
        simp [State.readByte_writeByte]
      | succ k =>
        rw [add_ofNat_succ]
        simpa using hat k (by simpa using hk)

/-- An address that no stored byte meets reads as before. -/
theorem State.readByte_writeBytes_other (s : State) (a b : Word) (bs : List Byte)
    (h : ∀ k, k < bs.length → reduce b ≠ reduce (a + BitVec.ofNat 16 k)) :
    (s.writeBytes a bs).readByte b = s.readByte b := by
  induction bs generalizing s a with
  | nil => rfl
  | cons c bs ih =>
    rw [State.writeBytes, ih _ _ fun k hk => by rw [← add_ofNat_succ]; exact h (k + 1) (by simpa using hk),
      State.readByte_writeByte, if_neg]
    simpa using h 0 (by simp)

@[simp] theorem State.readBytes_length (s : State) (a : Word) (n : Nat) : (s.readBytes a n).length = n := by
  induction n generalizing a with
  | zero => rfl
  | succ n ih => simp [State.readBytes, ih]

/-- Byte `k` of a sequence read. -/
theorem State.readBytes_getElem (s : State) (a : Word) (n k : Nat) (hk : k < (s.readBytes a n).length) :
    (s.readBytes a n)[k] = s.readByte (a + BitVec.ofNat 16 k) := by
  induction n generalizing a k with
  | zero => simp at hk
  | succ n ih =>
    cases k with
    | zero => simp [State.readBytes]
    | succ k => simp only [State.readBytes, List.getElem_cons_succ, ih]; rw [add_ofNat_succ]

/-- A block of registers loaded changes registers only. -/
theorem State.setRegBlock_eq (s : State) (k : RegIx) (bs : List Byte) :
    s.setRegBlock k bs = { s with v := (s.setRegBlock k bs).v } := by
  induction bs generalizing s k with
  | nil => rfl
  | cons b bs ih => rw [State.setRegBlock, ih]; rfl

/-- The registers after a block load from register `k` upwards that does not pass register 15. -/
theorem State.reg_setRegBlock (s : State) (k : RegIx) (bs : List Byte) (h : k.toNat + bs.length ≤ 16) (q : RegIx) :
    (s.setRegBlock k bs).reg q =
      if hq : k.toNat ≤ q.toNat ∧ q.toNat - k.toNat < bs.length then bs[q.toNat - k.toNat]'hq.2 else s.reg q := by
  induction bs generalizing s k with
  | nil => simp [State.setRegBlock]
  | cons b bs ih =>
    have hk := k.isLt
    have hq := q.isLt
    simp only [List.length_cons] at h
    rw [State.setRegBlock]
    by_cases hlast : k.toNat = 15
    · have : bs = [] := List.length_eq_zero_iff.1 (by omega)
      subst this
      simp only [State.setRegBlock, State.reg_setReg]
      by_cases hqk : q = k
      · subst hqk; simp
      · have : q.toNat ≠ k.toNat := fun e => hqk (BitVec.eq_of_toNat_eq e)
        rw [if_neg hqk, dif_neg]
        simp only [List.length_cons, List.length_nil]; omega
    · have hk1 : (k + 1).toNat = k.toNat + 1 := by
        rw [BitVec.toNat_add, show (1 : RegIx).toNat = 1 from rfl]; omega
      rw [ih _ _ (by omega), State.reg_setReg]
      simp only [hk1]
      by_cases hqk : q = k
      · subst hqk
        rw [dif_neg (by omega), if_pos rfl, dif_pos (by simp)]
        simp
      · have hne : q.toNat ≠ k.toNat := fun e => hqk (BitVec.eq_of_toNat_eq e)
        simp only [hqk, if_false]
        by_cases hin : k.toNat + 1 ≤ q.toNat ∧ q.toNat - (k.toNat + 1) < bs.length
        · rw [dif_pos hin, dif_pos ⟨by omega, by simp only [List.length_cons]; omega⟩]
          have : q.toNat - k.toNat = (q.toNat - (k.toNat + 1)) + 1 := by omega
          simp [this]
        · rw [dif_neg hin, dif_neg]
          simp only [List.length_cons]; omega

/-- The block of registers a dump stores (R161). -/
theorem State.regBlock_getElem (s : State) (x : RegIx) (k : Nat) (hk : k < (s.regBlock x).length) :
    (s.regBlock x)[k] = s.reg (BitVec.ofNat 4 k) := by
  have hx := x.isLt
  simp only [State.regBlock, List.length_take, Vector.length_toList] at hk
  have : k % 16 = k := Nat.mod_eq_of_lt (by omega)
  simp [State.regBlock, State.reg, this]

@[simp] theorem State.regBlock_length (s : State) (x : RegIx) : (s.regBlock x).length = x.toNat + 1 := by
  have hx := x.isLt
  simp only [State.regBlock, List.length_take, Vector.length_toList]; omega

end Sys2Proof.Machine
end

