-- ==== Sys2Proof/Laws/Display.lean ====
section
/-! SUPPORT. The framebuffer and the sprite compositor: what toggling one cell, drawing one row and drawing a sprite do to
every cell and to the collision bit (R141, R142, R144). -/

namespace Sys2Proof.Machine

/-- Cells are read modulo the framebuffer's size (R144). -/
theorem Framebuffer.cell_congr (fb : Framebuffer) (r c r' c' : Nat) (hr : r % 32 = r' % 32) (hc : c % 64 = c' % 64) :
    fb.cell r c = fb.cell r' c' := by
  simp only [Framebuffer.cell, hr, hc]

@[simp] theorem Framebuffer.cell_blank (r c : Nat) : Framebuffer.blank.cell r c = false := by
  simp [Framebuffer.cell, Framebuffer.blank]

/-- Two framebuffers with the same 2048 cells are the same. -/
theorem Framebuffer.ext_cell (a b : Framebuffer) (h : ∀ r c, r < 32 → c < 64 → a.cell r c = b.cell r c) : a = b := by
  apply Vector.ext; intro r hr
  apply Vector.ext; intro c hc
  simpa [Framebuffer.cell, Nat.mod_eq_of_lt hr, Nat.mod_eq_of_lt hc] using h r c hr hc

/-- Toggling one cell flips it and no other (R141). -/
theorem Framebuffer.cell_toggle (fb : Framebuffer) (r c r' c' : Nat) :
    (fb.toggle r c).cell r' c' =
      if r' % 32 = r % 32 ∧ c' % 64 = c % 64 then !(fb.cell r' c') else fb.cell r' c' := by
  by_cases hr : r' % 32 = r % 32
  · by_cases hc : c' % 64 = c % 64
    · simp [Framebuffer.cell, Framebuffer.toggle, hr, hc]
    · have hc' : ¬ c % 64 = c' % 64 := fun h => hc h.symm
      simp [Framebuffer.cell, Framebuffer.toggle, hr, hc, hc']
  · have hr' : ¬ r % 32 = r' % 32 := fun h => hr h.symm
    simp [Framebuffer.cell, Framebuffer.toggle, hr, hr']

/-- The first `m` columns of a sprite row: column `col < m` with its bit set lands on column `c` of the framebuffer. -/
def rowHit (m vx : Nat) (b : Byte) (c : Nat) : Prop :=
  ∃ col, col < m ∧ spriteBit b col = true ∧ c % 64 = (vx + col) % 64

/-- The first `m ≤ 64` columns of a sprite row: a cell is flipped exactly when a set bit lands on it, and the collision
bit records whether a flipped cell was set. -/
theorem Canvas.foldl_plot (k : Canvas) (r vx : Nat) (b : Byte) (m : Nat) (hm : m ≤ 64) :
    let k' := (List.range m).foldl (fun k col => if spriteBit b col then k.plot r (vx + col) else k) k
    (∀ r' c', (r' % 32 = r % 32 ∧ rowHit m vx b c' → k'.fb.cell r' c' = !(k.fb.cell r' c')) ∧
      (¬ (r' % 32 = r % 32 ∧ rowHit m vx b c') → k'.fb.cell r' c' = k.fb.cell r' c')) ∧
    (k'.collision = true ↔ k.collision = true ∨
      ∃ col, col < m ∧ spriteBit b col = true ∧ k.fb.cell r (vx + col) = true) := by
  induction m with
  | zero => exact ⟨fun r' c' => ⟨fun ⟨_, col, h, _⟩ => absurd h (by omega), fun _ => rfl⟩, by simp⟩
  | succ m ih =>
    obtain ⟨hcell, hcol⟩ := ih (by omega)
    rw [List.range_succ, List.foldl_append]
    simp only [List.foldl_cons, List.foldl_nil]
    generalize (List.range m).foldl (fun k col => if spriteBit b col then k.plot r (vx + col) else k) k = k' at *
    -- the new column's cell has not been met before
    have hfresh : k'.fb.cell r (vx + m) = k.fb.cell r (vx + m) :=
      (hcell r (vx + m)).2 fun ⟨_, col, hlt, _, he⟩ => by omega
    by_cases hb : spriteBit b m = true
    · simp only [hb, if_true]
      constructor
      · intro r' c'
        simp only [Canvas.plot, Framebuffer.cell_toggle]
        by_cases hhere : r' % 32 = r % 32 ∧ c' % 64 = (vx + m) % 64
        · rw [if_pos hhere, Framebuffer.cell_congr k'.fb _ _ _ _ hhere.1 hhere.2, hfresh,
            Framebuffer.cell_congr k.fb r' c' _ _ hhere.1 hhere.2]
          exact ⟨fun _ => rfl, fun h => absurd ⟨hhere.1, m, by omega, hb, hhere.2⟩ h⟩
        · rw [if_neg hhere]
          refine ⟨fun ⟨hr, col, hlt, hset, he⟩ => (hcell r' c').1 ⟨hr, col, ?_, hset, he⟩, fun h => (hcell r' c').2 ?_⟩
          · rcases Nat.lt_succ_iff_lt_or_eq.1 hlt with hlt | rfl
            · exact hlt
            · exact absurd ⟨hr, he⟩ hhere
          · exact fun ⟨hr, col, hlt, hset, he⟩ => h ⟨hr, col, by omega, hset, he⟩
      · simp only [Canvas.plot, Bool.or_eq_true, hcol, hfresh]
        constructor
        · rintro ((h | ⟨col, hlt, hset, hc⟩) | h)
          · exact .inl h
          · exact .inr ⟨col, by omega, hset, hc⟩
          · exact .inr ⟨m, by omega, hb, h⟩
        · rintro (h | ⟨col, hlt, hset, hc⟩)
          · exact .inl (.inl h)
          · rcases Nat.lt_succ_iff_lt_or_eq.1 hlt with hlt | rfl
            · exact .inl (.inr ⟨col, hlt, hset, hc⟩)
            · exact .inr hc
    · simp only [hb]
      have hiff : ∀ c', rowHit (m + 1) vx b c' ↔ rowHit m vx b c' := fun c' =>
        ⟨fun ⟨col, hlt, hset, he⟩ => ⟨col, by
            rcases Nat.lt_succ_iff_lt_or_eq.1 hlt with hlt | rfl
            · exact hlt
            · exact absurd hset hb, hset, he⟩,
          fun ⟨col, hlt, hset, he⟩ => ⟨col, by omega, hset, he⟩⟩
      simp only [hiff]
      refine ⟨hcell, hcol.trans ⟨?_, ?_⟩⟩
      · rintro (h | ⟨col, hlt, hset, hc⟩)
        · exact .inl h
        · exact .inr ⟨col, by omega, hset, hc⟩
      · rintro (h | ⟨col, hlt, hset, hc⟩)
        · exact .inl h
        · rcases Nat.lt_succ_iff_lt_or_eq.1 hlt with hlt | rfl
          · exact .inr ⟨col, hlt, hset, hc⟩
          · exact absurd hset hb

/-- A sprite of at most 32 rows (R141, R142 (c)): a cell is flipped exactly when a set bit of some row lands on it, and the
collision bit records whether a flipped cell was set before the draw. -/
theorem Canvas.drawSprite_spec (bs : List Byte) (k : Canvas) (vx vy : Nat) (hlen : bs.length ≤ 32) :
    (∀ r c,
      ((∃ row, ∃ h : row < bs.length, r % 32 = (vy + row) % 32 ∧ rowHit 8 vx bs[row] c) →
        (k.drawSprite vx vy bs).fb.cell r c = !(k.fb.cell r c)) ∧
      (¬ (∃ row, ∃ h : row < bs.length, r % 32 = (vy + row) % 32 ∧ rowHit 8 vx bs[row] c) →
        (k.drawSprite vx vy bs).fb.cell r c = k.fb.cell r c)) ∧
    ((k.drawSprite vx vy bs).collision = true ↔ k.collision = true ∨
      ∃ row, ∃ h : row < bs.length, ∃ col, col < 8 ∧ spriteBit bs[row] col = true ∧
        k.fb.cell (vy + row) (vx + col) = true) := by
  induction bs generalizing k vy with
  | nil => exact ⟨fun r c => ⟨fun ⟨row, h, _⟩ => absurd h (by simp), fun _ => rfl⟩, by simp [Canvas.drawSprite]⟩
  | cons b bs ih =>
    simp only [List.length_cons] at hlen
    obtain ⟨hcell, hcol⟩ := ih (k.drawRow vy vx b) (vy + 1) (by omega)
    obtain ⟨rcell, rcol⟩ := Canvas.foldl_plot k vy vx b 8 (by omega)
    change ∀ r' c', _ at rcell
    have rdef : (List.range 8).foldl (fun k col => if spriteBit b col then k.plot vy (vx + col) else k) k =
      k.drawRow vy vx b := rfl
    rw [rdef] at rcell rcol
    rw [Canvas.drawSprite]
    constructor
    · intro r c
      constructor
      · rintro ⟨row, hrow, hr, hhit⟩
        cases row with
        | zero =>
          rw [(hcell r c).2, (rcell r c).1 ⟨by simpa using hr, by simpa using hhit⟩]
          rintro ⟨row', hrow', hr', _⟩; omega
        | succ row =>
          rw [(hcell r c).1 ⟨row, by simpa using hrow, by omega, by simpa using hhit⟩, (rcell r c).2]
          simp only [List.length_cons] at hrow
          rintro ⟨hr', _⟩; omega
      · intro h
        rw [(hcell r c).2 fun ⟨row, hrow, hr, hhit⟩ =>
            h ⟨row + 1, by simpa using hrow, by omega, by simpa using hhit⟩,
          (rcell r c).2 fun ⟨hr, hhit⟩ => h ⟨0, by simp, by simpa using hr, by simpa using hhit⟩]
    · rw [hcol, rcol, or_assoc]
      have hsame : ∀ row, row < bs.length → ∀ c,
          (k.drawRow vy vx b).fb.cell (vy + 1 + row) c = k.fb.cell (vy + (row + 1)) c := fun row hrow c => by
        rw [(rcell _ _).2 fun ⟨hr, _⟩ => by omega]
        congr 1; omega
      refine or_congr Iff.rfl ⟨?_, ?_⟩
      · rintro (⟨col, hlt, hset, hc⟩ | ⟨row, hrow, col, hlt, hset, hc⟩)
        · exact ⟨0, by simp, col, hlt, by simpa using hset, by simpa using hc⟩
        · exact ⟨row + 1, by simpa using hrow, col, hlt, by simpa using hset, by rw [← hsame row hrow]; exact hc⟩
      · rintro ⟨row, hrow, col, hlt, hset, hc⟩
        cases row with
        | zero => exact .inl ⟨col, hlt, by simpa using hset, by simpa using hc⟩
        | succ row =>
          have hrow' : row < bs.length := by simpa using hrow
          exact .inr ⟨row, hrow', col, hlt, by simpa using hset, by rw [hsame row hrow']; exact hc⟩

end Sys2Proof.Machine
end

