-- ==== Sys2Proof/Laws/Keys.lean ====
section
/-! SUPPORT. The key latch: the list of pressed keys, the test for any key, and the Step that waits (R153, R154). -/

namespace Sys2Proof.Machine

/-- The list of pressed keys holds exactly the pressed keys. -/
theorem Keys.mem_pressedList (keys : Keys) (k : KeyIx) : k ∈ keys.pressedList ↔ keys.pressed k = true := by
  simp only [Keys.pressedList, List.mem_filter, List.mem_map, List.mem_range, and_iff_right_iff_imp]
  exact fun _ => ⟨k.toNat, k.isLt, by simp⟩

/-- The list of pressed keys rises. -/
theorem Keys.pressedList_pairwise (keys : Keys) : keys.pressedList.Pairwise fun j k => j.toNat < k.toNat :=
  List.Pairwise.filter _ (by decide)

/-- `keys != 0` (R153). -/
theorem Keys.any_iff (keys : Keys) : keys.any = true ↔ ∃ k, keys.pressed k = true := by
  rw [Keys.any, Bool.not_eq_true', List.isEmpty_eq_false_iff_exists_mem]
  simp only [Keys.mem_pressedList]

theorem Keys.any_false_iff (keys : Keys) : keys.any = false ↔ ∀ k, keys.pressed k = false := by
  rw [← Bool.not_eq_true, Keys.any_iff]; simp

/-- Reading the latch after one key was set (R189). -/
theorem Keys.pressed_set (keys : Keys) (k j : KeyIx) (p : Bool) :
    Keys.pressed (keys.set k.toNat p k.isLt) j = if j = k then p else keys.pressed j := by
  simp only [Keys.pressed, Vector.getElem_set]
  simp [← BitVec.toNat_inj, eq_comm]

/-- Taking a key: one register and `pc` (R153, R154). -/
theorem State.takeKey_eq (s : State) (r : RegIx) :
    s.takeKey r = (s.setReg r ((s.keys.select s.params.keySelect).zeroExtend 8)).setPc (s.pc + 2) := rfl

end Sys2Proof.Machine
end

