-- ==== Sys2Proof/Laws/PerInstr.lean ====
section
/-! SUPPORT. Per-instruction statements: every instruction's word lies in its own row of the opcode map (R66). -/

namespace Sys2Proof

theorem encodeA_and_group (g : BitVec 4) (nnn : Addr12) : encodeA g nnn &&& 0xF000#16 = encodeA g 0#12 := by
  have h : (0xF000#16 : Word) = (0xF#4 ++ 0x000#12 : BitVec (4 + 12)) := rfl
  have hg : g &&& 0xF#4 = g := by simpa using BitVec.and_allOnes (x := g)
  rw [h, encodeA, BitVec.and_append, hg, BitVec.and_zero]; rfl

theorem encodeI_and_group (g : BitVec 4) (x : RegIx) (kk : Byte) :
    encodeI g x kk &&& 0xF000#16 = encodeI g 0#4 0#8 := by
  have h : (0xF000#16 : Word) = (0xF#4 ++ 0x0#4 ++ 0x00#8 : BitVec (4 + 4 + 8)) := rfl
  have hg : g &&& 0xF#4 = g := by simpa using BitVec.and_allOnes (x := g)
  rw [h, encodeI, BitVec.and_append, BitVec.and_append, hg, BitVec.and_zero, BitVec.and_zero]; rfl

theorem encodeI_and_selector (g : BitVec 4) (x : RegIx) (kk : Byte) :
    encodeI g x kk &&& 0xF0FF#16 = encodeI g 0#4 kk := by
  have h : (0xF0FF#16 : Word) = (0xF#4 ++ 0x0#4 ++ 0xFF#8 : BitVec (4 + 4 + 8)) := rfl
  have hg : g &&& 0xF#4 = g := by simpa using BitVec.and_allOnes (x := g)
  have hk : kk &&& 0xFF#8 = kk := by simpa using BitVec.and_allOnes (x := kk)
  rw [h, encodeI, BitVec.and_append, BitVec.and_append, hg, hk, BitVec.and_zero]; rfl

theorem encodeR_and_group (g : BitVec 4) (x y : RegIx) (n : Nibble) :
    encodeR g x y n &&& 0xF000#16 = encodeR g 0#4 0#4 0#4 := by
  have h : (0xF000#16 : Word) = (0xF#4 ++ 0x0#4 ++ 0x0#4 ++ 0x0#4 : BitVec (4 + 4 + 4 + 4)) := rfl
  have hg : g &&& 0xF#4 = g := by simpa using BitVec.and_allOnes (x := g)
  rw [h, encodeR, BitVec.and_append, BitVec.and_append, BitVec.and_append, hg, BitVec.and_zero, BitVec.and_zero,
    BitVec.and_zero]
  rfl

theorem encodeR_and_selector (g : BitVec 4) (x y : RegIx) (n : Nibble) :
    encodeR g x y n &&& 0xF00F#16 = encodeR g 0#4 0#4 n := by
  have h : (0xF00F#16 : Word) = (0xF#4 ++ 0x0#4 ++ 0x0#4 ++ 0xF#4 : BitVec (4 + 4 + 4 + 4)) := rfl
  have hg : g &&& 0xF#4 = g := by simpa using BitVec.and_allOnes (x := g)
  have hn : n &&& 0xF#4 = n := by simpa using BitVec.and_allOnes (x := n)
  rw [h, encodeR, BitVec.and_append, BitVec.and_append, BitVec.and_append, hg, hn, BitVec.and_zero, BitVec.and_zero]
  rfl

end Sys2Proof

namespace Sys2Proof.Laws.RowMatch

/-- The word of `i`, under the mask of its row, is the row's match value (R66). -/
def Statement (i : Instr) : Prop := encode i &&& i.mnemonic.mask = i.mnemonic.pattern

theorem clearScreen : Statement .clearScreen :=
  rfl

theorem ret : Statement .ret :=
  rfl

theorem jump (nnn : Addr12) : Statement (.jump nnn) :=
  encodeA_and_group _ _

theorem call (nnn : Addr12) : Statement (.call nnn) :=
  encodeA_and_group _ _

theorem skipEqImm (x : RegIx) (kk : Byte) : Statement (.skipEqImm x kk) :=
  encodeI_and_group _ _ _

theorem skipNeImm (x : RegIx) (kk : Byte) : Statement (.skipNeImm x kk) :=
  encodeI_and_group _ _ _

theorem skipEqReg (x y : RegIx) : Statement (.skipEqReg x y) :=
  encodeR_and_group _ _ _ _

theorem loadImm (x : RegIx) (kk : Byte) : Statement (.loadImm x kk) :=
  encodeI_and_group _ _ _

theorem addImm (x : RegIx) (kk : Byte) : Statement (.addImm x kk) :=
  encodeI_and_group _ _ _

theorem move (x y : RegIx) : Statement (.move x y) :=
  encodeR_and_selector _ _ _ _

theorem or (x y : RegIx) : Statement (.or x y) :=
  encodeR_and_selector _ _ _ _

theorem and (x y : RegIx) : Statement (.and x y) :=
  encodeR_and_selector _ _ _ _

theorem xor (x y : RegIx) : Statement (.xor x y) :=
  encodeR_and_selector _ _ _ _

theorem addCarry (x y : RegIx) : Statement (.addCarry x y) :=
  encodeR_and_selector _ _ _ _

theorem subNotBorrow (x y : RegIx) : Statement (.subNotBorrow x y) :=
  encodeR_and_selector _ _ _ _

theorem shiftRight (x y : RegIx) : Statement (.shiftRight x y) :=
  encodeR_and_selector _ _ _ _

theorem subRevNotBorrow (x y : RegIx) : Statement (.subRevNotBorrow x y) :=
  encodeR_and_selector _ _ _ _

theorem shiftLeft (x y : RegIx) : Statement (.shiftLeft x y) :=
  encodeR_and_selector _ _ _ _

theorem skipNeReg (x y : RegIx) : Statement (.skipNeReg x y) :=
  encodeR_and_group _ _ _ _

theorem loadIndex (nnn : Addr12) : Statement (.loadIndex nnn) :=
  encodeA_and_group _ _

theorem jumpOffset (nnn : Addr12) : Statement (.jumpOffset nnn) :=
  encodeA_and_group _ _

theorem randMask (x : RegIx) (kk : Byte) : Statement (.randMask x kk) :=
  encodeI_and_group _ _ _

theorem draw (x y : RegIx) (n : Nibble) : Statement (.draw x y n) :=
  encodeR_and_group _ _ _ _

theorem skipKeyPressed (x : RegIx) : Statement (.skipKeyPressed x) :=
  encodeI_and_selector _ _ _

theorem skipKeyNotPressed (x : RegIx) : Statement (.skipKeyNotPressed x) :=
  encodeI_and_selector _ _ _

theorem readDelay (x : RegIx) : Statement (.readDelay x) :=
  encodeI_and_selector _ _ _

theorem waitKey (x : RegIx) : Statement (.waitKey x) :=
  encodeI_and_selector _ _ _

theorem setDelay (x : RegIx) : Statement (.setDelay x) :=
  encodeI_and_selector _ _ _

theorem setSound (x : RegIx) : Statement (.setSound x) :=
  encodeI_and_selector _ _ _

theorem addIndex (x : RegIx) : Statement (.addIndex x) :=
  encodeI_and_selector _ _ _

theorem glyphAddress (x : RegIx) : Statement (.glyphAddress x) :=
  encodeI_and_selector _ _ _

theorem storeBcd (x : RegIx) : Statement (.storeBcd x) :=
  encodeI_and_selector _ _ _

theorem regDump (x : RegIx) : Statement (.regDump x) :=
  encodeI_and_selector _ _ _

theorem regLoad (x : RegIx) : Statement (.regLoad x) :=
  encodeI_and_selector _ _ _

end Sys2Proof.Laws.RowMatch
end

