-- ==== Sys2Proof/Laws/Step.lean ====
section
/-! SUPPORT. What a Step and a step can do, said once: the cases of `coreStep`, and the meanings as the next states they
give. Later proofs cite these instead of unfolding. -/

namespace Sys2Proof.Machine

/-- The four things a Step does (R70): nothing on a halted core, the waiting Step, an instruction, a reported word. -/
theorem coreStep_cases (s t : State) (h : coreStep s = .next t) :
    (s.halted = true ∧ t = s) ∨
    (∃ r, s.halted = false ∧ s.mode = .awaitingKey r ∧ t = s.waitingStep r) ∨
    (∃ i, s.halted = false ∧ s.mode = .running ∧ decode s.fetchWord = .op i ∧ exec i s = .next t) ∨
    (s.halted = false ∧ s.mode = .running ∧ decode s.fetchWord = .unrecognized ∧
      t = s.raise .unrecognizedOpcode s.fetchWord) := by
  unfold coreStep at h
  cases hh : s.halted with
  | true => simp only [hh, if_true, Host.Outcome.next.injEq] at h; exact .inl ⟨rfl, h.symm⟩
  | false =>
    simp only [hh, Bool.false_eq_true, if_false] at h
    cases hm : s.mode with
    | awaitingKey r =>
      simp only [hm, Host.Outcome.next.injEq] at h; exact .inr (.inl ⟨r, rfl, rfl, h.symm⟩)
    | running =>
      simp only [hm] at h
      cases hd : decode s.fetchWord with
      | op i => simp only [hd] at h; exact .inr (.inr (.inl ⟨i, rfl, rfl, rfl, h⟩))
      | unrecognized =>
        simp only [hd, Host.Outcome.next.injEq] at h; exact .inr (.inr (.inr ⟨rfl, rfl, rfl, h.symm⟩))

/-- A step performs the next event on the state with that event taken (R7). -/
theorem step_eq (s : State) : step s = perform s.nextEvent s.takeEvent := rfl

/-- On a core that fetches, a Step executes the decoded instruction (R70). -/
theorem coreStep_exec (s : State) (i : Instr) (hh : s.halted = false) (hm : s.mode = .running)
    (hd : decode s.fetchWord = .op i) : coreStep s = exec i s := by
  simp [coreStep, hh, hm, hd]

@[simp] theorem State.takeEvent_reg (s : State) (q : RegIx) : s.takeEvent.reg q = s.reg q := rfl

@[simp] theorem State.takeEvent_readByte (s : State) (a : Word) : s.takeEvent.readByte a = s.readByte a := rfl

@[simp] theorem State.takeEvent_fetchWord (s : State) : s.takeEvent.fetchWord = s.fetchWord := rfl

end Sys2Proof.Machine
end

