-- ==== Sys2Proof/Tests/Slice0.lean ====
section
/-! SUPPORT. The model's own tests: decoding against words written out from spec/30_encoding.md, the text checks of
WellFormed, one or two steps per instruction against the vectors of spec/95_test_vectors.md, and, for every statement
with hypotheses, a state that meets them. -/

namespace Sys2Proof.Tests

open Sys2Proof Sys2Proof.Machine

/-! ### Helpers -/

/-- The reset state with some registers set. -/
def withRegs (l : List (RegIx × Byte)) (s : State) : State := l.foldl (fun s p => s.setReg p.1 p.2) s

/-- A state with some bytes stored from address `a` upwards. -/
def withBytes (a : Word) (bs : List Byte) (s : State) : State := s.writeBytes a bs

/-- The state after one step; a step always has a next state (R171). -/
def stepOnce (s : State) : State :=
  match step s with
  | .next t => t
  | .fault _ => s
  | .refused _ => s

/-- The state after the word `w` is placed at `pc` and run by one step. -/
def runWord (w : Nat) (s : State) : State := stepOnce (s.withFetchWord 16 w)

/-- What that step hands back to the host. -/
def outcomeOf (w : Nat) (s : State) : EventResult := nextResult (s.withFetchWord 16 w)

/-- The state after the host's event `e`. -/
def afterEvent (e : HostEvent) (s : State) : State := stepOnce { s with hostQueue := [e] }

/-- The reset state after a program was loaded (R52). -/
def loaded (bs : List Byte) : State := State.reset.loadProgram bs

/-- How many cells of the framebuffer are set. -/
def litCells (fb : Framebuffer) : Nat := (fb.toList.map fun row => row.toList.count true).sum

/-- One set cell at row `r`, column `c`. -/
def oneCell (r c : Nat) : Framebuffer := Framebuffer.blank.toggle r c

/-- One pressed key. -/
def press (k : KeyIx) (s : State) : State := s.keyEvent k true

/-- The other setting of `SHIFT_SOURCE`. -/
def shiftVx (s : State) : State := { s with params := { s.params with shiftSource := .vx } }

/-- The other setting of `UNRECOGNIZED_POLICY`. -/
def skipPolicy (s : State) : State := { s with params := { s.params with unrecognizedPolicy := .skip } }

/-! ### Decoding: every row, words of spec/95_test_vectors.md section 2.1 (V-E1 to V-E52), bits written out -/

theorem test_decode_clearScreen : decode 0b0000_0000_1110_0000#16 = .op .clearScreen := by decide

theorem test_decode_ret : decode 0b0000_0000_1110_1110#16 = .op .ret := by decide

theorem test_decode_jump : decode 0b0001_1010_1011_1100#16 = .op (.jump 0xABC) := by decide

theorem test_decode_call : decode 0b0010_1111_1111_1111#16 = .op (.call 0xFFF) := by decide

theorem test_decode_skipEqImm : decode 0b0011_1010_0111_1111#16 = .op (.skipEqImm 10 0x7F) := by decide

theorem test_decode_skipNeImm : decode 0b0100_1011_0000_0000#16 = .op (.skipNeImm 11 0x00) := by decide

theorem test_decode_skipEqReg : decode 0b0101_0001_0010_0011#16 = .op (.skipEqReg 1 2) := by decide

theorem test_decode_loadImm : decode 0b0110_0000_0000_0101#16 = .op (.loadImm 0 0x05) := by decide

theorem test_decode_addImm : decode 0b0111_1111_1111_1111#16 = .op (.addImm 15 0xFF) := by decide

theorem test_decode_move : decode 0b1000_1010_1011_0000#16 = .op (.move 10 11) := by decide

theorem test_decode_or : decode 0b1000_1010_1011_0001#16 = .op (.or 10 11) := by decide

theorem test_decode_and : decode 0b1000_1010_1011_0010#16 = .op (.and 10 11) := by decide

theorem test_decode_xor : decode 0b1000_1010_1011_0011#16 = .op (.xor 10 11) := by decide

theorem test_decode_addCarry : decode 0b1000_0000_0001_0100#16 = .op (.addCarry 0 1) := by decide

theorem test_decode_subNotBorrow : decode 0b1000_1010_1011_0101#16 = .op (.subNotBorrow 10 11) := by decide

theorem test_decode_shiftRight : decode 0b1000_1010_1011_0110#16 = .op (.shiftRight 10 11) := by decide

theorem test_decode_subRevNotBorrow : decode 0b1000_1010_1011_0111#16 = .op (.subRevNotBorrow 10 11) := by decide

theorem test_decode_shiftLeft : decode 0b1000_1010_1011_1110#16 = .op (.shiftLeft 10 11) := by decide

theorem test_decode_skipNeReg : decode 0b1001_1010_1011_1111#16 = .op (.skipNeReg 10 11) := by decide

theorem test_decode_loadIndex : decode 0b1010_0001_0010_0011#16 = .op (.loadIndex 0x123) := by decide

theorem test_decode_jumpOffset : decode 0b1011_0010_0000_0000#16 = .op (.jumpOffset 0x200) := by decide

theorem test_decode_randMask : decode 0b1100_0000_1111_1111#16 = .op (.randMask 0 0xFF) := by decide

theorem test_decode_draw : decode 0b1101_0000_0001_0101#16 = .op (.draw 0 1 5) := by decide

theorem test_decode_skipKeyPressed : decode 0b1110_0000_1001_1110#16 = .op (.skipKeyPressed 0) := by decide

theorem test_decode_skipKeyNotPressed : decode 0b1110_1111_1010_0001#16 = .op (.skipKeyNotPressed 15) := by decide

theorem test_decode_readDelay : decode 0b1111_0000_0000_0111#16 = .op (.readDelay 0) := by decide

theorem test_decode_waitKey : decode 0b1111_0001_0000_1010#16 = .op (.waitKey 1) := by decide

theorem test_decode_setDelay : decode 0b1111_0010_0001_0101#16 = .op (.setDelay 2) := by decide

theorem test_decode_setSound : decode 0b1111_0011_0001_1000#16 = .op (.setSound 3) := by decide

theorem test_decode_addIndex : decode 0b1111_0100_0001_1110#16 = .op (.addIndex 4) := by decide

theorem test_decode_glyphAddress : decode 0b1111_0101_0010_1001#16 = .op (.glyphAddress 5) := by decide

theorem test_decode_storeBcd : decode 0b1111_0110_0011_0011#16 = .op (.storeBcd 6) := by decide

theorem test_decode_regDump : decode 0b1111_0111_0101_0101#16 = .op (.regDump 7) := by decide

theorem test_decode_regLoad : decode 0b1111_1000_0110_0101#16 = .op (.regLoad 8) := by decide

/-- V-E3 to V-E6, V-E25, V-E27. -/
theorem test_decode_unrecognized_0_8 :
    decode 0x0000 = .unrecognized ∧ decode 0x00E1 = .unrecognized ∧ decode 0x00FE = .unrecognized ∧
    decode 0x0123 = .unrecognized ∧ decode 0x8AB8 = .unrecognized ∧ decode 0x8ABF = .unrecognized := by decide

/-- V-E37 to V-E39, V-E49 to V-E52. -/
theorem test_decode_unrecognized_E_F :
    decode 0xE09F = .unrecognized ∧ decode 0xE0A0 = .unrecognized ∧ decode 0xE19D = .unrecognized ∧
    decode 0xF000 = .unrecognized ∧ decode 0xF075 = .unrecognized ∧ decode 0xF1FF = .unrecognized ∧
    decode 0xF106 = .unrecognized ∧ decode 0xF108 = .unrecognized ∧ decode 0xF10B = .unrecognized := by decide

/-- V-E12, V-E14, V-E28 (R68): the low nibble of the register skips is not examined. -/
theorem test_decode_ignored_nibble :
    decode 0x5120 = .op (.skipEqReg 1 2) ∧ decode 0x512F = .op (.skipEqReg 1 2) ∧
    decode 0x9AB0 = .op (.skipNeReg 10 11) := by decide

/-- R60, R42: two bytes, the high byte first; one byte is no instruction. -/
theorem test_decode_bytes :
    decodeBytes [0x80, 0x14, 0x77] = .op (.addCarry 0 1) [0x77] ∧ decodeBytes [0x80] = .error .truncated ∧
    decodeBytes [0x80, 0x18] = .error (.unrecognized 0x8018) := by decide

/-- The table's numbering: bit 0 is the least significant bit of the word. -/
theorem test_decode_table_word :
    decodeTableWord 16 0x8014 = some (.addCarry 0 1) ∧ decodeTableWord 16 0x8018 = none := by decide

/-! ### Well-formed text (R72): one ill-formed line for each check, refused -/

theorem test_wf_address_too_large : assemble ⟨.jump, [4096]⟩ = none ∧ assemble ⟨.jump, [4095]⟩ = some 0x1FFF := by decide

theorem test_wf_register_too_large :
    assemble ⟨.loadImm, [16, 0]⟩ = none ∧ assemble ⟨.move, [0, 16]⟩ = none ∧ assemble ⟨.move, [16, 0]⟩ = none ∧
    assemble ⟨.draw, [16, 0, 0]⟩ = none ∧ assemble ⟨.draw, [0, 16, 0]⟩ = none ∧ assemble ⟨.waitKey, [16]⟩ = none ∧
    assemble ⟨.skipEqReg, [16, 0, 0]⟩ = none ∧ assemble ⟨.skipEqReg, [0, 16, 0]⟩ = none := by decide

theorem test_wf_immediate_too_large :
    assemble ⟨.loadImm, [15, 256]⟩ = none ∧ assemble ⟨.loadImm, [15, 255]⟩ = some 0x6FFF := by decide

theorem test_wf_nibble_too_large :
    assemble ⟨.draw, [0, 1, 16]⟩ = none ∧ assemble ⟨.skipNeReg, [1, 2, 16]⟩ = none ∧
    assemble ⟨.draw, [0, 1, 15]⟩ = some 0xD01F := by decide

theorem test_wf_operand_count :
    assemble ⟨.clearScreen, [0]⟩ = none ∧ assemble ⟨.jump, []⟩ = none ∧ assemble ⟨.addImm, [1]⟩ = none ∧
    assemble ⟨.waitKey, [1, 2]⟩ = none ∧ assemble ⟨.draw, [1, 2]⟩ = none := by decide

/-- Only the two register skips take a low nibble; without one the assembler writes 0. -/
theorem test_wf_low_nibble :
    assemble ⟨.move, [1, 2, 3]⟩ = none ∧ assemble ⟨.skipEqReg, [1, 2, 3]⟩ = some 0x5123 ∧
    assemble ⟨.skipEqReg, [1, 2]⟩ = some 0x5120 := by decide

/-! ### Control transfer (V-T1 to V-T27) -/

/-- V-T1, V-T3. -/
theorem test_jump :
    (runWord 0x1204 State.reset).pc = 0x0204 ∧
    outcomeOf 0x1204 State.reset = .stepped (.ok false) ∧
    (runWord 0x1001 State.reset).pc = 0x0001 := by decide

/-- V-T4, V-T5. -/
theorem test_call :
    (runWord 0x2206 State.reset).sp = 1 ∧
    (runWord 0x2206 State.reset).top = 0x0202 ∧
    (runWord 0x2206 State.reset).pc = 0x0206 ∧
    (runWord 0x2206 State.reset).stack[0] = 0 ∧
    (runWord 0x2400 { State.reset with pc := 0x0300, sp := 14 }).sp = 15 ∧
    (runWord 0x2400 { State.reset with pc := 0x0300, sp := 14 }).top = 0x0302 := by decide

/-- V-T6. -/
theorem test_call_overflow :
    outcomeOf 0x2400 { State.reset with pc := 0x0300, sp := 15 } =
      .stepped (.fault ⟨.stackOverflow, 0x2400, 0x0300⟩) ∧
    (runWord 0x2400 { State.reset with pc := 0x0300, sp := 15 }).pc = 0x0300 ∧
    (runWord 0x2400 { State.reset with pc := 0x0300, sp := 15 }).halted = true := by decide

/-- V-T7. -/
theorem test_return :
    (runWord 0x00EE { State.reset with pc := 0x020C, sp := 1, stack := State.reset.stack.set 1 0x0202 }).pc = 0x0202 ∧
    (runWord 0x00EE { State.reset with pc := 0x020C, sp := 1, stack := State.reset.stack.set 1 0x0202 }).sp = 0 ∧
    (runWord 0x00EE { State.reset with pc := 0x020C, sp := 1, stack := State.reset.stack.set 1 0x0202 }).stack[1] = 0x0202 := by decide

/-- V-T8. -/
theorem test_return_underflow :
    outcomeOf 0x00EE State.reset = .stepped (.fault ⟨.stackUnderflow, 0x00EE, 0x0200⟩) ∧
    (runWord 0x00EE State.reset).fault = some ⟨.stackUnderflow, 0x00EE, 0x0200⟩ ∧
    (runWord 0x00EE State.reset).halted = true ∧
    (runWord 0x00EE State.reset).sp = 0 := by decide

/-- V-T9 to V-T11. -/
theorem test_skip_eq_reg :
    (runWord 0x5123 (withRegs [(1, 1), (2, 2)] State.reset)).pc = 0x0202 ∧
    (runWord 0x5123 (withRegs [(1, 9), (2, 9)] State.reset)).pc = 0x0204 ∧
    (runWord 0x5110 (withRegs [(1, 0x37)] State.reset)).pc = 0x0204 := by decide

/-- V-T12 to V-T14. -/
theorem test_skip_eq_imm :
    (runWord 0x3100 { State.reset with pc := 0x0208 }).pc = 0x020C ∧
    (runWord 0x3100 { (withRegs [(1, 4)] State.reset) with pc := 0x0208 }).pc = 0x020A ∧
    (runWord 0x3F01 (withRegs [(15, 1)] State.reset)).pc = 0x0204 := by decide

/-- V-T15, V-T16. -/
theorem test_skip_ne_imm :
    (runWord 0x4207 { (withRegs [(2, 7)] State.reset) with pc := 0x0300 }).pc = 0x0302 ∧
    (runWord 0x4208 { (withRegs [(2, 7)] State.reset) with pc := 0x0300 }).pc = 0x0304 := by decide

/-- V-T17 to V-T20. -/
theorem test_skip_ne_reg :
    (runWord 0x9340 { (withRegs [(3, 5), (4, 6)] State.reset) with pc := 0x0210 }).pc = 0x0214 ∧
    (runWord 0x9340 { (withRegs [(3, 5), (4, 5)] State.reset) with pc := 0x0210 }).pc = 0x0212 ∧
    (runWord 0x934B { (withRegs [(3, 5), (4, 6)] State.reset) with pc := 0x0210 }).pc = 0x0214 ∧
    (runWord 0x9110 (withRegs [(1, 0x37)] State.reset)).pc = 0x0202 := by decide

/-- V-T22 to V-T24. -/
theorem test_jump_offset :
    (runWord 0xBFFF (withRegs [(0, 2)] State.reset)).pc = 0x1001 ∧
    (runWord 0xBFFF (withRegs [(0, 0xFF)] State.reset)).pc = 0x10FE ∧
    (runWord 0xB300 (withRegs [(0, 1), (3, 0x55)] State.reset)).pc = 0x0301 := by decide

/-- V-T25, V-T26 (the first bytes of the default glyph table, G2). -/
theorem test_fetch_wraps :
    (stepOnce (withBytes 0x0FFE [0x60, 0x07] { State.reset with pc := 0x0FFE })).reg 0 = 7 ∧
    (stepOnce (withBytes 0x0FFF [0x61] { State.reset with pc := 0x0FFF })).reg 1 = 0xF0 ∧
    (stepOnce (withBytes 0x0FFF [0x61] { State.reset with pc := 0x0FFF })).pc = 0x1001 := by decide

/-! ### Loads and arithmetic (V-A1 to V-A52) -/

/-- V-A1, V-A2. -/
theorem test_load_imm :
    (runWord 0x6005 State.reset).reg 0 = 5 ∧
    (runWord 0x6F07 State.reset).reg 15 = 7 ∧
    (runWord 0x6005 State.reset).pc = 0x0202 := by decide

/-- V-A3, V-A5. -/
theorem test_add_imm :
    (runWord 0x7102 (withRegs [(1, 0xFF)] State.reset)).reg 1 = 1 ∧
    (runWord 0x7102 (withRegs [(1, 0xFF)] State.reset)).reg 15 = 0 ∧
    (runWord 0x7FFF (withRegs [(15, 1)] State.reset)).reg 15 = 0 := by decide

/-- V-A6. -/
theorem test_move :
    (runWord 0x8120 (withRegs [(2, 0x7A)] State.reset)).reg 1 = 0x7A ∧
    (runWord 0x8120 (withRegs [(2, 0x7A)] State.reset)).reg 2 = 0x7A := by decide

/-- V-A7. -/
theorem test_or :
    (runWord 0x8121 (withRegs [(1, 0xF0), (2, 0x0F), (15, 0x55)] State.reset)).reg 1 = 0xFF ∧
    (runWord 0x8121 (withRegs [(1, 0xF0), (2, 0x0F), (15, 0x55)] State.reset)).reg 15 = 0x55 := by decide

/-- V-A8. -/
theorem test_and :
    (runWord 0x8122 (withRegs [(1, 0xF3), (2, 0x3C), (15, 0x55)] State.reset)).reg 1 = 0x30 ∧
    (runWord 0x8122 (withRegs [(1, 0xF3), (2, 0x3C), (15, 0x55)] State.reset)).reg 15 = 0x55 := by decide

/-- V-A8b, V-A8c. -/
theorem test_xor :
    (runWord 0x8123 (withRegs [(1, 0xF3), (2, 0x3C), (15, 0x55)] State.reset)).reg 1 = 0xCF ∧
    (runWord 0x8123 (withRegs [(1, 0xF3), (2, 0x3C), (15, 0x55)] State.reset)).reg 15 = 0x55 ∧
    (runWord 0x8113 (withRegs [(1, 0xF3)] State.reset)).reg 1 = 0 := by decide

/-- V-A9 to V-A12. -/
theorem test_add_carry :
    (runWord 0x8014 (withRegs [(0, 5), (1, 3)] State.reset)).reg 0 = 8 ∧
    (runWord 0x8014 (withRegs [(0, 5), (1, 3)] State.reset)).reg 15 = 0 ∧
    (runWord 0x8124 (withRegs [(1, 0xFF), (2, 1)] State.reset)).reg 1 = 0 ∧
    (runWord 0x8124 (withRegs [(1, 0xFF), (2, 1)] State.reset)).reg 15 = 1 ∧
    (runWord 0x8124 (withRegs [(1, 0x80), (2, 0x7F), (15, 1)] State.reset)).reg 1 = 0xFF ∧
    (runWord 0x8124 (withRegs [(1, 0x80), (2, 0x7F), (15, 1)] State.reset)).reg 15 = 0 ∧
    (runWord 0x8124 (withRegs [(1, 0x80), (2, 0x80)] State.reset)).reg 1 = 0 ∧
    (runWord 0x8124 (withRegs [(1, 0x80), (2, 0x80)] State.reset)).reg 15 = 1 := by decide

/-- V-A15 to V-A17. -/
theorem test_add_carry_flag_register :
    (runWord 0x8F14 (withRegs [(15, 0xF0), (1, 0x20)] State.reset)).reg 15 = 1 ∧
    (runWord 0x81F4 (withRegs [(1, 0x10), (15, 1)] State.reset)).reg 1 = 0x11 ∧
    (runWord 0x81F4 (withRegs [(1, 0x10), (15, 1)] State.reset)).reg 15 = 0 ∧
    (runWord 0x8FF4 (withRegs [(15, 0x80)] State.reset)).reg 15 = 1 ∧
    (runWord 0x8FF4 (withRegs [(15, 1)] State.reset)).reg 15 = 0 := by decide

/-- V-A18 to V-A21. -/
theorem test_sub_not_borrow :
    (runWord 0x8125 (withRegs [(1, 3), (2, 5)] State.reset)).reg 1 = 0xFE ∧
    (runWord 0x8125 (withRegs [(1, 3), (2, 5)] State.reset)).reg 15 = 0 ∧
    (runWord 0x8125 (withRegs [(1, 5), (2, 5)] State.reset)).reg 1 = 0 ∧
    (runWord 0x8125 (withRegs [(1, 5), (2, 5)] State.reset)).reg 15 = 1 ∧
    (runWord 0x8125 (withRegs [(1, 5), (2, 3)] State.reset)).reg 1 = 2 ∧
    (runWord 0x8125 (withRegs [(1, 5), (2, 3)] State.reset)).reg 15 = 1 ∧
    (runWord 0x8125 (withRegs [(1, 0), (2, 1)] State.reset)).reg 1 = 0xFF ∧
    (runWord 0x8125 (withRegs [(1, 0), (2, 1)] State.reset)).reg 15 = 0 := by decide

/-- V-A24, V-A25. -/
theorem test_sub_not_borrow_flag_register :
    (runWord 0x8F15 (withRegs [(15, 5), (1, 3)] State.reset)).reg 15 = 1 ∧
    (runWord 0x8F15 (withRegs [(15, 3), (1, 5)] State.reset)).reg 15 = 0 ∧
    (runWord 0x81F5 (withRegs [(1, 5), (15, 1)] State.reset)).reg 1 = 4 ∧
    (runWord 0x81F5 (withRegs [(1, 5), (15, 1)] State.reset)).reg 15 = 1 := by decide

/-- V-A27, V-A28. -/
theorem test_shift_right :
    (runWord 0x8126 (withRegs [(1, 3), (2, 0x81)] State.reset)).reg 1 = 0x40 ∧
    (runWord 0x8126 (withRegs [(1, 3), (2, 0x81)] State.reset)).reg 2 = 0x81 ∧
    (runWord 0x8126 (withRegs [(1, 3), (2, 0x81)] State.reset)).reg 15 = 1 ∧
    (runWord 0x8126 (shiftVx (withRegs [(1, 3), (2, 0x81)] State.reset))).reg 1 = 1 ∧
    (runWord 0x8126 (shiftVx (withRegs [(1, 3), (2, 0x81)] State.reset))).reg 2 = 0x81 ∧
    (runWord 0x8126 (shiftVx (withRegs [(1, 3), (2, 0x81)] State.reset))).reg 15 = 1 := by decide

/-- V-A31, V-A33, V-A34. -/
theorem test_shift_right_flag_register :
    (runWord 0x8126 (withRegs [(2, 0xFE)] State.reset)).reg 1 = 0x7F ∧
    (runWord 0x8126 (withRegs [(2, 0xFE)] State.reset)).reg 15 = 0 ∧
    (runWord 0x8F26 (withRegs [(2, 3)] State.reset)).reg 15 = 1 ∧
    (runWord 0x8F26 (shiftVx (withRegs [(15, 2)] State.reset))).reg 15 = 0 := by decide

/-- V-A35 to V-A37. -/
theorem test_sub_rev_not_borrow :
    (runWord 0x8127 (withRegs [(1, 3), (2, 5)] State.reset)).reg 1 = 2 ∧
    (runWord 0x8127 (withRegs [(1, 3), (2, 5)] State.reset)).reg 2 = 5 ∧
    (runWord 0x8127 (withRegs [(1, 3), (2, 5)] State.reset)).reg 15 = 1 ∧
    (runWord 0x8127 (withRegs [(1, 5), (2, 3)] State.reset)).reg 1 = 0xFE ∧
    (runWord 0x8127 (withRegs [(1, 5), (2, 3)] State.reset)).reg 15 = 0 ∧
    (runWord 0x8127 (withRegs [(1, 7), (2, 7)] State.reset)).reg 1 = 0 ∧
    (runWord 0x8127 (withRegs [(1, 7), (2, 7)] State.reset)).reg 15 = 1 := by decide

/-- V-A38, V-A39. -/
theorem test_shift_left :
    (runWord 0x812E (withRegs [(1, 0x40), (2, 0x81)] State.reset)).reg 1 = 2 ∧
    (runWord 0x812E (withRegs [(1, 0x40), (2, 0x81)] State.reset)).reg 2 = 0x81 ∧
    (runWord 0x812E (withRegs [(1, 0x40), (2, 0x81)] State.reset)).reg 15 = 1 ∧
    (runWord 0x812E (shiftVx (withRegs [(1, 0x40), (2, 0x81)] State.reset))).reg 1 = 0x80 ∧
    (runWord 0x812E (shiftVx (withRegs [(1, 0x40), (2, 0x81)] State.reset))).reg 2 = 0x81 ∧
    (runWord 0x812E (shiftVx (withRegs [(1, 0x40), (2, 0x81)] State.reset))).reg 15 = 0 := by decide

/-- V-A42, V-A43. -/
theorem test_shift_left_corners :
    (runWord 0x812E (withRegs [(2, 0xFF)] State.reset)).reg 1 = 0xFE ∧
    (runWord 0x812E (withRegs [(2, 0xFF)] State.reset)).reg 15 = 1 ∧
    (runWord 0x812E (withRegs [(2, 1), (15, 1)] State.reset)).reg 1 = 2 ∧
    (runWord 0x812E (withRegs [(2, 1), (15, 1)] State.reset)).reg 15 = 0 := by decide

/-- V-A44, V-A45. -/
theorem test_load_index :
    (runWord 0xA300 State.reset).i = 0x0300 ∧
    (runWord 0xAFFF State.reset).i = 0x0FFF := by decide

/-- V-A46 to V-A48. -/
theorem test_add_index :
    (runWord 0xF31E { (withRegs [(3, 5)] State.reset) with i := 0x0FFE }).i = 0x1003 ∧
    (runWord 0xF31E { (withRegs [(3, 5)] State.reset) with i := 0x0FFE }).reg 15 = 0 ∧
    (runWord 0xF31E { (withRegs [(3, 2)] State.reset) with i := 0xFFFF }).i = 0x0001 ∧
    (runWord 0xFF1E { (withRegs [(15, 3)] State.reset) with i := 0x0010 }).i = 0x0013 := by decide

/-- V-A49, V-A51, V-A52: the random byte given. -/
theorem test_rand_mask :
    (State.reset.randMask 1 0x0F 0xA7).reg 1 = 0x07 ∧
    (State.reset.randMask 1 0xFF 0x5C).reg 1 = 0x5C ∧
    (State.reset.randMask 1 0xF0 0xFF).reg 1 = 0xF0 ∧
    (State.reset.randMask 1 0x0F 0xA7).pc = 0x0202 := by decide

/-- V-A50: with the mask 0 the result is 0, whatever the random byte is; and the instruction takes the next free byte and
counts it. -/
theorem test_rand_mask_free_byte :
    (∀ rnd : Byte, (State.reset.randMask 1 0 rnd).reg 1 = 0) ∧
    exec (.randMask 1 0x0F) State.reset =
      .next { State.reset.randMask 1 0x0F (Config.rnd 0) with draws := 1 } :=
  ⟨fun rnd => by rw [State.randMask, show rnd &&& 0 = 0 from BitVec.and_zero]; decide, rfl⟩

/-! ### Display (V-D1 to V-D12) -/

/-- V-D1. -/
theorem test_clear_screen :
    litCells (runWord 0x00E0 { State.reset with fb := oneCell 3 4 }).fb = 0 ∧
    (runWord 0x00E0 State.reset).dirty = true ∧
    outcomeOf 0x00E0 State.reset = .stepped (.ok true) ∧
    (runWord 0x00E0 State.reset).pc = 0x0202 := by decide

/-- V-D2 (bit order: G3). -/
theorem test_draw :
    (runWord 0xD121 (withBytes 0x020C [0xC3] { (withRegs [(1, 62), (2, 31)] State.reset) with i := 0x020C })).fb.cell 31 62 = true ∧
    (runWord 0xD121 (withBytes 0x020C [0xC3] { (withRegs [(1, 62), (2, 31)] State.reset) with i := 0x020C })).fb.cell 31 63 = true ∧
    (runWord 0xD121 (withBytes 0x020C [0xC3] { (withRegs [(1, 62), (2, 31)] State.reset) with i := 0x020C })).fb.cell 31 4 = true ∧
    (runWord 0xD121 (withBytes 0x020C [0xC3] { (withRegs [(1, 62), (2, 31)] State.reset) with i := 0x020C })).fb.cell 31 5 = true ∧
    litCells (runWord 0xD121 (withBytes 0x020C [0xC3] { (withRegs [(1, 62), (2, 31)] State.reset) with i := 0x020C })).fb = 4 ∧
    (runWord 0xD121 (withBytes 0x020C [0xC3] { (withRegs [(1, 62), (2, 31)] State.reset) with i := 0x020C })).reg 15 = 0 ∧
    (runWord 0xD121 (withBytes 0x020C [0xC3] { (withRegs [(1, 62), (2, 31)] State.reset) with i := 0x020C })).dirty = true ∧
    (runWord 0xD121 (withBytes 0x020C [0xC3] { (withRegs [(1, 62), (2, 31)] State.reset) with i := 0x020C })).i = 0x020C := by decide

/-- V-D3 to V-D5, V-D8: the collision bit, no rows, and `VF` as a coordinate. -/
theorem test_draw_collision :
    litCells (runWord 0xD121 (withBytes 0x0300 [0x80] { State.reset with i := 0x0300, fb := oneCell 0 0 })).fb = 0 ∧
    (runWord 0xD121 (withBytes 0x0300 [0x80] { State.reset with i := 0x0300, fb := oneCell 0 0 })).reg 15 = 1 ∧
    litCells (runWord 0xD121 (withBytes 0x0300 [0x80] { State.reset with i := 0x0300, fb := oneCell 0 1 })).fb = 2 ∧
    (runWord 0xD121 (withBytes 0x0300 [0x80] { State.reset with i := 0x0300, fb := oneCell 0 1 })).reg 15 = 0 ∧
    (runWord 0xD120 (withRegs [(15, 0x77)] State.reset)).reg 15 = 0 ∧
    (runWord 0xD120 State.reset).dirty = true ∧
    (runWord 0xDF21 (withBytes 0x0300 [0x80] { (withRegs [(15, 3), (2, 1)] State.reset) with i := 0x0300 })).fb.cell 1 3 = true ∧
    (runWord 0xDF21 (withBytes 0x0300 [0x80] { (withRegs [(15, 3), (2, 1)] State.reset) with i := 0x0300 })).reg 15 = 0 := by decide

/-- V-D10. -/
theorem test_glyph_address :
    (runWord 0xF029 (withRegs [(0, 1)] State.reset)).i = 0x0005 ∧
    (runWord 0xF029 (withRegs [(0, 0x1A)] State.reset)).i = 0x0082 ∧
    (runWord 0xF029 (withRegs [(0, 0xFF)] State.reset)).i = 0x04FB := by decide

/-- V-D1, V-D12. -/
theorem test_framebuffer_read :
    (afterEvent .framebufferRead { State.reset with dirty := true }).dirty = false ∧
    nextResult { State.reset with dirty := true, hostQueue := [.framebufferRead] } = .frame State.reset.fb true := by decide

/-! ### Keys and timers (V-K1 to V-K20) -/

/-- V-K1 to V-K3. -/
theorem test_skip_key_pressed :
    (runWord 0xE19E { (press 7 (withRegs [(1, 7)] State.reset)) with pc := 0x0208 }).pc = 0x020C ∧
    (runWord 0xE19E { (withRegs [(1, 7)] State.reset) with pc := 0x0208 }).pc = 0x020A ∧
    (runWord 0xE19E { (press 7 (withRegs [(1, 0x17)] State.reset)) with pc := 0x0208 }).pc = 0x020C := by decide

/-- V-K4. -/
theorem test_skip_key_not_pressed :
    (runWord 0xE1A1 { (withRegs [(1, 7)] State.reset) with pc := 0x0208 }).pc = 0x020C ∧
    (runWord 0xE1A1 { (press 7 (withRegs [(1, 7)] State.reset)) with pc := 0x0208 }).pc = 0x020A := by decide

/-- V-K5. -/
theorem test_wait_key_waits :
    outcomeOf 0xF10A State.reset = .stepped .waiting ∧
    (runWord 0xF10A State.reset).pc = 0x0200 ∧
    (runWord 0xF10A State.reset).mode = .awaitingKey 1 := by decide

/-- V-K8, V-K9 (default `KeySelect`). -/
theorem test_wait_key_takes :
    (runWord 0xF10A (press 3 State.reset)).reg 1 = 3 ∧
    (runWord 0xF10A (press 3 (press 9 State.reset))).reg 1 = 3 ∧
    (runWord 0xF10A (press 3 State.reset)).mode = .running ∧
    (runWord 0xF10A (press 3 State.reset)).pc = 0x0202 := by decide

/-- V-K6, V-K7. -/
theorem test_waiting_step :
    stepOnce { State.reset with mode := .awaitingKey 1 } = { State.reset with mode := .awaitingKey 1 } ∧
    (stepOnce { press 7 State.reset with mode := .awaitingKey 1 }).reg 1 = 7 ∧
    (stepOnce { press 7 State.reset with mode := .awaitingKey 1 }).mode = .running ∧
    (stepOnce { press 7 State.reset with mode := .awaitingKey 1 }).pc = 0x0202 := by decide

/-- V-K12. -/
theorem test_read_delay :
    (runWord 0xF207 { State.reset with dt := 7 }).reg 2 = 7 ∧
    (runWord 0xF207 { State.reset with dt := 7 }).dt = 7 := by decide

/-- V-K13. -/
theorem test_set_delay :
    (runWord 0xF015 (withRegs [(0, 10)] State.reset)).dt = 10 ∧
    (runWord 0xF015 (withRegs [(0, 10)] State.reset)).st = 0 := by decide

/-- V-K14. -/
theorem test_set_sound :
    (runWord 0xF318 (withRegs [(3, 0x3C)] State.reset)).st = 0x3C ∧
    (runWord 0xF318 (withRegs [(3, 0x3C)] State.reset)).dt = 0 := by decide

/-- V-K15, V-K16, V-K18. -/
theorem test_tick :
    (afterEvent .tick { State.reset with st := 2 }).dt = 0 ∧
    (afterEvent .tick { State.reset with st := 2 }).st = 1 ∧
    (afterEvent .tick { State.reset with dt := 255 }).dt = 254 ∧
    (afterEvent .tick { State.reset with dt := 3, halted := true }).dt = 2 := by decide

/-- V-K20. -/
theorem test_key_event :
    afterEvent (.keyEvent 4 true) (press 4 State.reset) = press 4 State.reset ∧
    (afterEvent (.keyEvent 4 false) (press 4 State.reset)).keys.pressed 4 = false := by decide

/-! ### Memory transfers, load, reset, faults (V-M1 to V-M17, V-L1 to V-L4, V-F1 to V-F5) -/

/-- V-M1, V-M9. -/
theorem test_store_bcd :
    (runWord 0xF033 { (withRegs [(0, 0xFF)] State.reset) with i := 0x0300 }).readBytes 0x0300 3 = [2, 5, 5] ∧
    (runWord 0xF033 { (withRegs [(0, 0xFF)] State.reset) with i := 0x0300 }).i = 0x0300 ∧
    (runWord 0xF333 { (withRegs [(3, 0x7B)] State.reset) with i := 0x0FFF }).readBytes 0x0FFF 3 = [1, 2, 3] ∧
    (runWord 0xF333 { (withRegs [(3, 0x7B)] State.reset) with i := 0x0FFF }).readByte 0x0000 = 2 := by decide

/-- V-M2, V-M5 to V-M8. -/
theorem test_store_bcd_digits :
    bcdDigits 234 = [2, 3, 4] ∧
    bcdDigits 99 = [0, 9, 9] ∧
    bcdDigits 100 = [1, 0, 0] ∧
    bcdDigits 109 = [1, 0, 9] ∧
    bcdDigits 200 = [2, 0, 0] := by decide

/-- V-M10, V-M13. -/
theorem test_reg_dump :
    (runWord 0xF255 { (withRegs [(0, 0x11), (1, 0x22), (2, 0x33), (3, 0x44)] State.reset) with i := 0x0400 }).readBytes 0x0400 4 = [0x11, 0x22, 0x33, 0] ∧
    (runWord 0xF255 { (withRegs [(0, 0x11), (1, 0x22), (2, 0x33), (3, 0x44)] State.reset) with i := 0x0400 }).i = 0x0400 ∧
    (runWord 0xF355 { (withRegs [(0, 0xA1), (1, 0xA2), (2, 0xA3), (3, 0xA4)] State.reset) with i := 0x0FFE }).readByte 0x0FFF = 0xA2 ∧
    (runWord 0xF355 { (withRegs [(0, 0xA1), (1, 0xA2), (2, 0xA3), (3, 0xA4)] State.reset) with i := 0x0FFE }).readByte 0x0000 = 0xA3 := by decide

/-- V-M14, V-M15 (G2). -/
theorem test_reg_load :
    (runWord 0xF265 (withBytes 0x0300 [2, 3, 4] { (withRegs [(3, 0xEA)] State.reset) with i := 0x0300 })).reg 0 = 2 ∧
    (runWord 0xF265 (withBytes 0x0300 [2, 3, 4] { (withRegs [(3, 0xEA)] State.reset) with i := 0x0300 })).reg 2 = 4 ∧
    (runWord 0xF265 (withBytes 0x0300 [2, 3, 4] { (withRegs [(3, 0xEA)] State.reset) with i := 0x0300 })).reg 3 = 0xEA ∧
    (runWord 0xF265 (withBytes 0x0300 [2, 3, 4] { (withRegs [(3, 0xEA)] State.reset) with i := 0x0300 })).i = 0x0300 ∧
    (runWord 0xF465 State.reset).reg 1 = 0x90 ∧
    (runWord 0xF465 State.reset).reg 4 = 0xF0 := by decide

/-- V-F1. -/
theorem test_unrecognized_halts :
    nextResult State.reset = .stepped (.fault ⟨.unrecognizedOpcode, 0x0000, 0x0200⟩) ∧
    (stepOnce State.reset).halted = true ∧
    (stepOnce State.reset).pc = 0x0200 ∧
    stepOnce (stepOnce State.reset) = stepOnce State.reset ∧
    nextResult (stepOnce State.reset) = .stepped .halted := by decide

/-- V-F2. -/
theorem test_unrecognized_skips :
    (stepOnce (skipPolicy State.reset)).pc = 0x0202 ∧
    (stepOnce (skipPolicy State.reset)).halted = false ∧
    nextResult (stepOnce (skipPolicy State.reset)) = .stepped (.fault ⟨.unrecognizedOpcode, 0x0000, 0x0202⟩) ∧
    (stepOnce (stepOnce (skipPolicy State.reset))).fault = some ⟨.unrecognizedOpcode, 0x0000, 0x0200⟩ := by decide

/-- V-L3, V-L4. -/
theorem test_load_program :
    loaded [] = State.reset ∧
    ((loaded [0xAA, 0xBB, 0xCC, 0xDD]).loadProgram [0x11]).readBytes 0x0200 4 = [0x11, 0xBB, 0xCC, 0xDD] := by decide

/-- V-R1 (G2). -/
theorem test_reset_memory :
    State.reset.readByte 0x0000 = 0xF0 ∧
    State.reset.readByte 0x0005 = 0x20 ∧
    State.reset.readByte 0x004F = 0x80 ∧
    State.reset.readByte 0x0050 = 0 ∧
    State.reset.readByte 0x0FFF = 0 := by decide

/-- How a program comes to run from reset (log entry 28): the host's load, then steps (P1, its first step). -/
theorem test_program_runs :
    (stepOnce (stepOnce { State.reset with hostQueue := [.loadProgram [0x60, 0x05]] })).reg 0 = 5 ∧
    (stepOnce (stepOnce { State.reset with hostQueue := [.loadProgram [0x60, 0x05]] })).pc = 0x0202 := by decide

/-- R170: 0 is no fault. -/
theorem test_fault_codes :
    FaultKind.unrecognizedOpcode.code = 1 ∧
    FaultKind.stackOverflow.code = 2 ∧
    FaultKind.stackUnderflow.code = 3 := by decide

/-! ### Hypotheses met: for each statement that has some, a state and operands that meet all of them -/

theorem test_hyp_StepRunsDecodedInstruction :
    (loaded [0x60, 0x05]).nextEvent = .step ∧
    ((loaded [0x60, 0x05]).halted = false ∧ (loaded [0x60, 0x05]).mode = .running) ∧
    decode (wordOfBytes ((loaded [0x60, 0x05]).readByte (loaded [0x60, 0x05]).pc) ((loaded [0x60, 0x05]).readByte ((loaded [0x60, 0x05]).pc + 1))) = .op (.loadImm 0 5) := by decide

theorem test_hyp_HaltedStepChangesNothing :
    (stepOnce State.reset).nextEvent = .step ∧
    (stepOnce State.reset).halted = true := by decide

theorem test_hyp_WaitingStepRepeatsKeyTest_no_key :
    let s : State := { State.reset with mode := .awaitingKey 1 }
    s.nextEvent = .step ∧ s.halted = false ∧ s.mode = .awaitingKey 1 ∧ ∀ k, s.keys.pressed k = false := by decide

theorem test_hyp_WaitingStepRepeatsKeyTest_key :
    let s : State := { press 7 State.reset with mode := .awaitingKey 15 }
    s.nextEvent = .step ∧ s.halted = false ∧ s.mode = .awaitingKey 15 ∧ s.keys.pressed 7 = true := by decide

theorem test_hyp_UnrecognizedWordIsReported :
    State.reset.nextEvent = .step ∧ State.reset.fetches ∧ decode State.reset.fetchWord = .unrecognized ∧
    State.reset.params.unrecognizedPolicy = .halt := ⟨rfl, ⟨rfl, rfl⟩, by decide, rfl⟩

theorem test_hyp_UnrecognizedWordIsReported_skip :
    (skipPolicy State.reset).nextEvent = .step ∧ (skipPolicy State.reset).fetches ∧
    decode (skipPolicy State.reset).fetchWord = .unrecognized ∧
    (skipPolicy State.reset).params.unrecognizedPolicy = .skip := ⟨rfl, ⟨rfl, rfl⟩, by decide, rfl⟩

theorem test_hyp_EncodeDecodeRoundTrip :
    decode 0x9ABF = .op (.skipNeReg 10 11) ∧
    (Instr.skipNeReg 10 11).mnemonic.lowNibbleIgnored = true ∧
    decode 0xD015 = .op (.draw 0 1 5) ∧
    (Instr.draw 0 1 5).mnemonic.lowNibbleIgnored = false := by decide

theorem test_hyp_DecodeFollowsOpcodeMap :
    (0x9ABF#16 &&& Mnemonic.skipNeReg.mask) = Mnemonic.skipNeReg.pattern ∧
    (0x00E0#16 &&& Mnemonic.clearScreen.mask) = Mnemonic.clearScreen.pattern := by decide

/-- One word of each of the four unrecognized ranges, and the word of each range's edge that does decode. -/
theorem test_hyp_UnrecognizedWordsAreListed :
    decode 0x00EF = .unrecognized ∧ decode 0x00EE ≠ .unrecognized ∧ decode 0x8AB8 = .unrecognized ∧
    decode 0x8ABE ≠ .unrecognized ∧ decode 0xE0A2 = .unrecognized ∧ decode 0xE0A1 ≠ .unrecognized ∧
    decode 0xF066 = .unrecognized ∧ decode 0xF065 ≠ .unrecognized := by decide

theorem test_hyp_AssemblerAgreesWithDecoder :
    AsmLine.wf ⟨.skipEqReg, [1, 2, 3]⟩ = true ∧
    AsmLine.wf ⟨.skipEqReg, [1, 2]⟩ = true ∧
    AsmLine.wf ⟨.randMask, [15, 255]⟩ = true := by decide

theorem test_hyp_ResetEventRestoresReset :
    State.nextEvent { State.reset with hostQueue := [.reset, .tick] } = .reset := by decide

theorem test_hyp_JumpSetsPc :
    State.reset.pc.toNat = (0x200 : Addr12).toNat := by decide

theorem test_hyp_CallPushesOrOverflows :
    State.reset.sp.toNat < 15 ∧
    State.sp { State.reset with sp := 14 } < 15 ∧
    (State.sp { State.reset with sp := 15 }).toNat = 15 := by decide

theorem test_hyp_ReturnPopsOrUnderflows :
    0 < (State.sp { State.reset with sp := 1 }).toNat ∧
    0 < (State.sp { State.reset with sp := 15 }).toNat ∧
    State.reset.sp.toNat = 0 := by decide

/-- Between the call and the return `u` differs from `t` in what the hypotheses leave open. -/
theorem test_hyp_ReturnResumesAfterCall :
    ∃ t u : State, exec (.call 0x206) State.reset = .next t ∧ State.reset.sp.toNat < 15 ∧ u.sp = t.sp ∧ u.top = t.top ∧
      u.pc = 0x020C ∧ t.pc = 0x0206 :=
  ⟨(State.reset.push 0x0202).setPc 0x0206, (State.reset.push 0x0202).setPc 0x020C, rfl, by decide, rfl, rfl, rfl, rfl⟩

theorem test_hyp_ShiftsResultAndFlag :
    (2 : RegIx) = (match State.reset.params.shiftSource with | .vy => 2 | .vx => 1) ∧
    (1 : RegIx) = (match (shiftVx State.reset).params.shiftSource with | .vy => 2 | .vx => 1) := by decide

/-- A state in which a sprite row lands on a set cell, and one in which it lands on none (V-D4, V-D5). -/
theorem test_hyp_DrawTogglesCoveredCells :
    (withBytes 0x0300 [0x80] { State.reset with i := 0x0300, fb := oneCell 0 0 }).covers 1 2 1 0 0 ∧
    (withBytes 0x0300 [0x80] { State.reset with i := 0x0300, fb := oneCell 0 0 }).fb.cell 0 0 = true ∧
    (withBytes 0x0300 [0x80] { State.reset with i := 0x0300, fb := oneCell 0 1 }).covers 1 2 1 0 0 ∧
    (withBytes 0x0300 [0x80] { State.reset with i := 0x0300, fb := oneCell 0 1 }).fb.cell 0 0 = false :=
  ⟨⟨0, 0, by decide, by decide, by decide, by decide, by decide⟩, by decide,
    ⟨0, 0, by decide, by decide, by decide, by decide, by decide⟩, by decide⟩

theorem test_hyp_DrawTwiceRestoresFramebuffer :
    ∃ t, exec (.draw 1 2 1) (withBytes 0x0300 [0x80] { State.reset with i := 0x0300, fb := oneCell 0 0 }) = .next t ∧
      t.i = 0x0300 ∧ t.reg 1 = 0 ∧ t.reg 2 = 0 ∧
      State.SameMemory (withBytes 0x0300 [0x80] { State.reset with i := 0x0300, fb := oneCell 0 0 }) t :=
  ⟨_, rfl, rfl, by decide, by decide, fun _ => rfl⟩

theorem test_hyp_FramebufferReadClearsDirty :
    State.nextEvent { State.reset with hostQueue := [.framebufferRead] } = .framebufferRead := by decide

theorem test_hyp_DirtyAccumulatesRedraw :
    ∃ t, perform .step (loaded [0x00, 0xE0]) = .next t ∧ stepOutcome (loaded [0x00, 0xE0]) = .ok true :=
  ⟨_, rfl, by decide⟩

theorem test_hyp_KeySkipsTestLatch :
    (7 : KeyIx).toNat = (((withRegs [(1, 0x17)] State.reset).reg 1).toNat) % 16 ∧
    (press 7 State.reset).keys.pressed 7 = true ∧
    State.reset.keys.pressed 7 = false := by decide

theorem test_hyp_WaitKeyTakesOrWaits :
    (press 3 State.reset).keys.pressed 3 = true ∧ ∀ k, State.reset.keys.pressed k = false := by decide

theorem test_hyp_SelectedKeyIsPressed :
    (press 3 State.reset).keys.pressed 3 = true ∧ ∀ j, (press 3 State.reset).keys.pressed j = true → j = 3 := by decide

theorem test_hyp_TickCountsTimersDown :
    State.nextEvent { State.reset with hostQueue := [.tick] } = .tick := by decide

theorem test_hyp_KeyEventSetsOneKey :
    State.nextEvent { State.reset with hostQueue := [.keyEvent 15 true] } = .keyEvent 15 true := by decide

theorem test_hyp_RegLoadReadsBlockAndUndoesDump :
    ∃ d, exec (.regDump 15) { State.reset with i := 0x0400 } = .next d ∧ d.SameMemory d ∧ d.i = 0x0400 :=
  ⟨_, rfl, fun _ => rfl, rfl⟩

/-- A program of the largest size, and one byte more (V-L1, V-L2). -/
theorem test_hyp_LoadProgramCopiesOrRefuses :
    (List.replicate 3584 (0 : Byte)).length ≤ 3584 ∧ 3584 < (List.replicate 3585 (0 : Byte)).length ∧
    State.nextEvent { State.reset with hostQueue := [.loadProgram [0xAA]] } = .loadProgram [0xAA] ∧
    ∀ bs, State.nextEvent { State.reset with hostQueue := [.loadProgram bs] } = .loadProgram bs :=
  ⟨le_of_eq List.length_replicate, lt_of_lt_of_eq (by decide) List.length_replicate.symm, rfl, fun _ => rfl⟩

/-- Instructions that complete: one that names its destination, one that writes the flag, one that does neither. -/
theorem test_hyp_RegistersChangeOnlyAsDestination :
    (∃ t, exec (.addCarry 1 2) State.reset = .next t) ∧ (Instr.addCarry 1 2).writesFlag = true ∧
    (Instr.addCarry 1 2).namesDestination 3 = false ∧ (∃ t, exec (.jump 0) State.reset = .next t) ∧
    (Instr.jump 0).namesDestination 15 = false ∧ (Instr.jump 0).writesFlag = false :=
  ⟨⟨_, rfl⟩, rfl, rfl, ⟨_, rfl⟩, rfl, rfl⟩

theorem test_hyp_StackPointerInLockstep :
    (∃ t, exec (.call 0x206) State.reset = .next t ∧ t.sp = 1) ∧
    ∃ t, exec .ret { State.reset with sp := 15 } = .next t ∧ t.sp = 14 := ⟨⟨_, rfl, rfl⟩, ⟨_, rfl, rfl⟩⟩

theorem test_hyp_StateWritersAreListed :
    (∃ t, exec (.setSound 1) State.reset = .next t) ∧ ∃ t, exec (.waitKey 1) State.reset = .next t ∧ t.mode = .awaitingKey 1 :=
  ⟨⟨_, rfl⟩, ⟨_, rfl, rfl⟩⟩

theorem test_hyp_ProgramCounterUpdate_instruction :
    (∃ t, exec (.skipEqImm 1 0) State.reset = .next t) ∧ ∃ t, exec .ret State.reset = .next t ∧ t.halted = true :=
  ⟨⟨_, rfl⟩, ⟨_, rfl, rfl⟩⟩

theorem test_hyp_ProgramCounterUpdate_waiting :
    let s : State := { press 7 State.reset with mode := .awaitingKey 1 }
    (∃ t, perform .step s = .next t) ∧ s.halted = false ∧ s.mode = .awaitingKey 1 ∧ s.keys.pressed 7 = true :=
  ⟨⟨_, rfl⟩, rfl, rfl, by decide⟩

theorem test_hyp_ProgramCounterUpdate_unrecognized :
    (∃ t, perform .step (skipPolicy State.reset) = .next t) ∧ (skipPolicy State.reset).fetches ∧
    decode (skipPolicy State.reset).fetchWord = .unrecognized := ⟨⟨_, rfl⟩, ⟨rfl, rfl⟩, by decide⟩

/-- A state of each kind of fault, and an instruction that is neither a call nor a return. -/
theorem test_hyp_FaultsHaveTheirCauses :
    State.reset.fetches ∧ stepOutcome State.reset = .fault ⟨.unrecognizedOpcode, 0x0000, 0x0200⟩ ∧
    stepOutcome { loaded [0x24, 0x00] with sp := 15 } = .fault ⟨.stackOverflow, 0x2400, 0x0200⟩ ∧
    stepOutcome (loaded [0x00, 0xEE]) = .fault ⟨.stackUnderflow, 0x00EE, 0x0200⟩ ∧
    ∃ t, exec .clearScreen State.reset = .next t := ⟨⟨rfl, rfl⟩, by decide, by decide, by decide, ⟨_, rfl⟩⟩

theorem test_hyp_FaultingStepIsPrecise :
    (∃ t, perform .step (loaded [0x00, 0xEE]) = .next t) ∧
    stepOutcome (loaded [0x00, 0xEE]) = .fault ⟨.stackUnderflow, 0x00EE, 0x0200⟩ ∧
    (∃ t, perform .step (loaded [0x00, 0xE0]) = .next t) ∧ stepOutcome (loaded [0x00, 0xE0]) = .ok true :=
  ⟨⟨_, rfl⟩, by decide, ⟨_, rfl⟩, by decide⟩

theorem test_hyp_OnlyResetClearsLatch :
    (∃ t, step (stepOnce State.reset) = .next t) ∧ (stepOnce State.reset).nextEvent ≠ .reset ∧ (stepOnce State.reset).fault ≠ none ∧
    (stepOnce State.reset).halted = true := ⟨⟨_, rfl⟩, by decide, by decide, by decide⟩

/-- The end of P2: a jump to its own address. -/
theorem test_hyp_JumpToSelfIsAnEnd :
    (loaded [0x12, 0x00]).endedNormally ∧ (loaded [0x12, 0x00]).nextEvent = .step :=
  ⟨⟨rfl, rfl, by decide, by decide⟩, rfl⟩

theorem test_hyp_StepKeepsInvariant : State.reset.Inv ∧ ∃ t, step State.reset = .next t :=
  ⟨⟨⟨List.Pairwise.nil, by decide⟩, rfl, by decide, nofun, nofun⟩, ⟨_, rfl⟩⟩

end Sys2Proof.Tests
end

section
/-! Every event has a next state (R7, log entry 7): each branch of a Step first, then each instruction, then each event. -/

namespace Sys2Proof.Machine

/-! ### The branches of a Step that execute no instruction, beside `coreStep_exec` (R70) -/

theorem coreStep_halted (s : State) (hh : s.halted = true) : coreStep s = .next s := by
  simp [coreStep, hh]

theorem coreStep_waiting (s : State) (r : RegIx) (hh : s.halted = false) (hm : s.mode = .awaitingKey r) :
    coreStep s = .next (s.waitingStep r) := by
  simp [coreStep, hh, hm]

theorem coreStep_unrecognized (s : State) (hh : s.halted = false) (hm : s.mode = .running)
    (hd : decode s.fetchWord = .unrecognized) :
    coreStep s = .next (s.raise .unrecognizedOpcode s.fetchWord) := by
  simp [coreStep, hh, hm, hd]

/-! ### A next state for each of them -/

/-- A return with no active frame raises its fault into the latch, which is a next state too (R90). -/
theorem execRet_hasNext (s : State) : ∃ t, execRet s = .next t := by
  unfold execRet
  split
  · exact ⟨_, rfl⟩
  · exact ⟨_, rfl⟩

/-- A call with a full stack raises its fault into the latch, which is a next state too (R92). -/
theorem execCall_hasNext (nnn : Addr12) (s : State) : ∃ t, execCall nnn s = .next t := by
  unfold execCall
  split
  · exact ⟨_, rfl⟩
  · exact ⟨_, rfl⟩

/-- With no key pressed, wait-key's next state is the waiting one (R153). -/
theorem execWaitKey_hasNext (x : RegIx) (s : State) : ∃ t, execWaitKey x s = .next t := by
  unfold execWaitKey
  split
  · exact ⟨_, rfl⟩
  · exact ⟨_, rfl⟩

/-- Three instructions choose between two next states by a test of the state; each of the other 31 names its next state
outright (R171). -/
theorem exec_hasNext (i : Instr) (s : State) : ∃ t, exec i s = .next t := by
  cases i with
  | ret => exact execRet_hasNext s
  | call nnn => exact execCall_hasNext nnn s
  | waitKey x => exact execWaitKey_hasNext x s
  | _ => exact ⟨_, rfl⟩

theorem coreStep_hasNext (s : State) : ∃ t, coreStep s = .next t := by
  cases hh : s.halted with
  | true => exact ⟨_, coreStep_halted s hh⟩
  | false =>
    cases hm : s.mode with
    | awaitingKey r => exact ⟨_, coreStep_waiting s r hh hm⟩
    | running =>
      cases hd : decode s.fetchWord with
      | op i => rw [coreStep_exec s i hh hm hd]; exact exec_hasNext i s
      | unrecognized => exact ⟨_, coreStep_unrecognized s hh hm hd⟩

/-- Of the six events only a Step has branches (R7). -/
theorem perform_hasNext (e : HostEvent) (s : State) : ∃ t, perform e s = .next t := by
  cases e with
  | step => exact coreStep_hasNext s
  | reset | loadProgram bytes | tick | keyEvent k pressed | framebufferRead => exact ⟨_, rfl⟩

/-- Settles O5: a step performs the next event, and every event has a next state. -/
theorem everyStepHasNextState : Obligations.EveryStepHasNextState := by
  intro s
  rw [step_eq]
  exact perform_hasNext s.nextEvent s.takeEvent

end Sys2Proof.Machine
end

section
/-! What an instruction can leave, said once for all 34 of them: which parts of the state it writes, and how far. The rules
of R27 about writers, the lockstep of `SP`, and the invariant are then short case splits over these effects. -/

namespace Sys2Proof.Machine

/-- The state `t` that instruction `i` leaves from `s`, by the part of the state it writes (R27). A value that no rule about
writers speaks of is left open. -/
inductive Effect (s : State) : Instr → State → Prop
  /-- Destination registers and `pc` only: the jumps, the skips, the loads and the ALU operations without a flag, and a
  wait-key that finds a key. -/
  | registers {i : Instr} {v : Vector Byte 16} {pc : Word} {draws : Nat} (hf : i.writesFlag = false)
      (hv : ∀ q : RegIx, i.namesDestination q = false → v[q.toNat]'q.isLt = s.reg q) :
      Effect s i { s with v := v, pc := pc, draws := draws }
  /-- The result to `V[x]`, then the flag to `VF` (R112). -/
  | resultFlag {i : Instr} {x : RegIx} {r : Byte} {f : Bool} (hf : i.writesFlag = true)
      (hx : i.namesDestination x = true) : Effect s i (s.writeResultFlag x r f)
  | loadIndex {nnn : Addr12} {a : Word} : Effect s (.loadIndex nnn) (s.setIndex a).advance
  | addIndex {x : RegIx} {a : Word} : Effect s (.addIndex x) (s.setIndex a).advance
  | glyphAddress {x : RegIx} {a : Word} : Effect s (.glyphAddress x) (s.setIndex a).advance
  /-- The two stores: memory and `pc` only, and memory stays canonical. -/
  | storeBcd {x : RegIx} {m : Memory} (hm : s.mem.wf → m.wf) :
      Effect s (.storeBcd x) { s with mem := m, pc := s.pc + 2 }
  | regDump {x : RegIx} {m : Memory} (hm : s.mem.wf → m.wf) :
      Effect s (.regDump x) { s with mem := m, pc := s.pc + 2 }
  | clearScreen : Effect s .clearScreen { s with fb := Framebuffer.blank, dirty := true }.advance
  | draw {x y : RegIx} {n : Nibble} {fb : Framebuffer} {f : Bool} :
      Effect s (.draw x y n) ({ s with fb := fb, dirty := true }.setFlag f).advance
  | setDelay {x : RegIx} : Effect s (.setDelay x) { s with dt := s.reg x }.advance
  | setSound {x : RegIx} : Effect s (.setSound x) { s with st := s.reg x }.advance
  /-- A wait-key that finds no key (R153). -/
  | wait {x : RegIx} : Effect s (.waitKey x) { s with mode := .awaitingKey x }
  | call {nnn : Addr12} (hsp : s.sp.toNat ≠ 15) :
      Effect s (.call nnn) ((s.push (s.pc + 2)).setPc (zextAddr nnn))
  | overflow {nnn : Addr12} : Effect s (.call nnn) (s.raise .stackOverflow (encode (.call nnn)))
  | ret (hsp : s.sp.toNat ≠ 0) : Effect s .ret (s.pop.setPc s.top)
  | underflow : Effect s .ret (s.raise .stackUnderflow (encode .ret))

/-! ### Every instruction has one of these effects -/

theorem State.reg_setReg_of_ne {s : State} {x q : RegIx} {b : Byte} (h : q ≠ x) :
    (s.setReg x b).reg q = s.reg q := by
  rw [State.reg_setReg, if_neg h]

/-- Writing the one register that an instruction names as its destination, and `pc`. -/
theorem Effect.ofSetReg {s : State} {i : Instr} (x : RegIx) {b : Byte} {pc : Word} {draws : Nat}
    (hf : i.writesFlag = false) (hx : ∀ q, i.namesDestination q = (q == x)) :
    Effect s i { s with v := (s.setReg x b).v, pc := pc, draws := draws } :=
  .registers hf fun q hq => State.reg_setReg_of_ne (beq_eq_false_iff_ne.1 ((hx q).symm.trans hq))

theorem execRet_effect {s t : State} (h : execRet s = .next t) : Effect s .ret t := by
  unfold execRet at h
  split at h
  next => obtain rfl := Host.Outcome.next.inj h; exact .underflow
  next hempty => obtain rfl := Host.Outcome.next.inj h; exact .ret (mt s.stackEmpty_iff.2 hempty)

theorem execCall_effect {nnn : Addr12} {s t : State} (h : execCall nnn s = .next t) : Effect s (.call nnn) t := by
  unfold execCall at h
  split at h
  next => obtain rfl := Host.Outcome.next.inj h; exact .overflow
  next hfull => obtain rfl := Host.Outcome.next.inj h; exact .call (mt s.stackFull_iff.2 hfull)

theorem execWaitKey_effect {x : RegIx} {s t : State} (h : execWaitKey x s = .next t) : Effect s (.waitKey x) t := by
  unfold execWaitKey at h
  split at h
  next => obtain rfl := Host.Outcome.next.inj h; exact .ofSetReg x rfl fun _ => rfl
  next => obtain rfl := Host.Outcome.next.inj h; exact .wait

/-- A block load from `V[0]` writes no register above `V[x]` (R162). -/
theorem execRegLoad_effect {x : RegIx} {s t : State} (h : execRegLoad x s = .next t) : Effect s (.regLoad x) t := by
  obtain rfl := Host.Outcome.next.inj h
  have hfit : (0 : RegIx).toNat + (s.readBytes s.i (x.toNat + 1)).length ≤ 16 := by
    have := x.isLt
    simp; omega
  have habove : ∀ q, (Instr.regLoad x).namesDestination q = false →
      (s.setRegBlock 0 (s.readBytes s.i (x.toNat + 1))).reg q = s.reg q := fun q hq => by
    have hq : x.toNat < q.toNat := by simpa [Instr.namesDestination] using hq
    rw [State.reg_setRegBlock _ _ _ hfit, dif_neg]
    simp; omega
  rw [State.setRegBlock_eq]
  exact .registers rfl habove

/-- What an instruction can leave (R27): the one case split over all 34. -/
theorem exec_effect {i : Instr} {s t : State} (h : exec i s = .next t) : Effect s i t := by
  cases i with
  | ret => exact execRet_effect h
  | call nnn => exact execCall_effect h
  | waitKey x => exact execWaitKey_effect h
  | regLoad x => exact execRegLoad_effect h
  | jump | jumpOffset | skipEqImm | skipNeImm | skipEqReg | skipNeReg | skipKeyPressed | skipKeyNotPressed =>
    obtain rfl := Host.Outcome.next.inj h
    exact .registers rfl fun _ _ => rfl
  | loadImm x | addImm x | move x | or x | and x | xor x | randMask x | readDelay x =>
    obtain rfl := Host.Outcome.next.inj h
    exact .ofSetReg x rfl fun _ => rfl
  | addCarry x | subNotBorrow x | shiftRight x | subRevNotBorrow x | shiftLeft x =>
    obtain rfl := Host.Outcome.next.inj h
    exact .resultFlag rfl (beq_self_eq_true x)
  | storeBcd =>
    obtain rfl := Host.Outcome.next.inj h
    rw [State.writeBytes_eq]
    exact .storeBcd (s.wf_writeBytes _ _)
  | regDump =>
    obtain rfl := Host.Outcome.next.inj h
    rw [State.writeBytes_eq]
    exact .regDump (s.wf_writeBytes _ _)
  | loadIndex => obtain rfl := Host.Outcome.next.inj h; exact .loadIndex
  | addIndex => obtain rfl := Host.Outcome.next.inj h; exact .addIndex
  | glyphAddress => obtain rfl := Host.Outcome.next.inj h; exact .glyphAddress
  | clearScreen => obtain rfl := Host.Outcome.next.inj h; exact .clearScreen
  | draw => obtain rfl := Host.Outcome.next.inj h; exact .draw
  | setDelay => obtain rfl := Host.Outcome.next.inj h; exact .setDelay
  | setSound => obtain rfl := Host.Outcome.next.inj h; exact .setSound

end Sys2Proof.Machine
end

section
/-! The writers of each piece of state (R27), by the effects. -/

namespace Sys2Proof.Machine

section

variable {s t : State} {i : Instr}

/-! ### Registers (R11) -/

theorem Effect.reg_eq (h : Effect s i t) (q : RegIx) (hq : i.namesDestination q = false)
    (hflag : q = flagIx → i.writesFlag = false) : t.reg q = s.reg q := by
  cases h with
  | registers hf hv => exact hv q hq
  | resultFlag hf hx =>
    have hqf : q ≠ flagIx := fun e => Bool.false_ne_true ((hflag e).symm.trans hf)
    have hqx : q ≠ _ := fun e => Bool.false_ne_true (hq.symm.trans (e ▸ hx))
    exact (State.reg_setReg_of_ne hqf).trans (State.reg_setReg_of_ne hqx)
  | draw => exact State.reg_setReg_of_ne fun e => Bool.false_ne_true (hflag e).symm
  | _ => rfl

theorem flagByte_eq_zero_or_one (f : Bool) : flagByte f = 0 ∨ flagByte f = 1 := by
  cases f
  · exact .inl rfl
  · exact .inr rfl

theorem State.reg_setFlag_eq_zero_or_one (s : State) (f : Bool) :
    (s.setFlag f).reg flagIx = 0 ∨ (s.setFlag f).reg flagIx = 1 := by
  rw [State.setFlag_eq, State.reg_setReg_same]
  exact flagByte_eq_zero_or_one f

theorem Effect.flag_eq_zero_or_one (h : Effect s i t) (hflag : i.writesFlag = true) :
    t.reg flagIx = 0 ∨ t.reg flagIx = 1 := by
  cases h with
  | registers hf hv => exact absurd (hf.symm.trans hflag) Bool.false_ne_true
  | resultFlag hf hx => exact State.reg_setFlag_eq_zero_or_one _ _
  | draw => exact State.reg_setFlag_eq_zero_or_one _ _
  | _ => exact absurd hflag Bool.false_ne_true

/-! ### The stack (R14, R15) -/

theorem Effect.sp_moves (h : Effect s i t) :
    t.sp = s.sp ∨ (∃ nnn, i = .call nnn ∧ t.sp.toNat = s.sp.toNat + 1) ∨ (i = .ret ∧ t.sp.toNat + 1 = s.sp.toNat) := by
  cases h with
  | call hsp => exact .inr (.inl ⟨_, rfl, by simp only [State.setPc_sp, State.push_sp]; bv_omega⟩)
  | ret hsp => exact .inr (.inr ⟨rfl, by simp only [State.setPc_sp, State.pop_sp]; bv_omega⟩)
  | _ => exact .inl rfl

theorem Effect.stack_writer (h : Effect s i t) : t.stack = s.stack ∨ ∃ nnn, i = .call nnn := by
  cases h with
  | call => exact .inr ⟨_, rfl⟩
  | _ => exact .inl rfl

/-- A push from fewer than 15 frames does not wrap to entry 0. -/
theorem State.stack_zero_push (s : State) (a : Word) (hsp : s.sp.toNat ≠ 15) : (s.push a).stack[0] = s.stack[0] := by
  rw [State.stack_push, if_neg]
  bv_omega

theorem Effect.stack_zero (h : Effect s i t) : t.stack[0] = s.stack[0] := by
  cases h with
  | call hsp => exact s.stack_zero_push _ hsp
  | _ => rfl

/-! ### The other fields -/

theorem Effect.mem_writer (h : Effect s i t) : t.mem = s.mem ∨ (∃ x, i = .storeBcd x) ∨ ∃ x, i = .regDump x := by
  cases h with
  | storeBcd => exact .inr (.inl ⟨_, rfl⟩)
  | regDump => exact .inr (.inr ⟨_, rfl⟩)
  | _ => exact .inl rfl

theorem Effect.mem_wf (h : Effect s i t) (hs : s.mem.wf) : t.mem.wf := by
  cases h with
  | storeBcd hm | regDump hm => exact hm hs
  | _ => exact hs

theorem Effect.display_writer (h : Effect s i t) :
    t.fb = s.fb ∧ t.dirty = s.dirty ∨ i = .clearScreen ∨ ∃ x y n, i = .draw x y n := by
  cases h with
  | clearScreen => exact .inr (.inl rfl)
  | draw => exact .inr (.inr ⟨_, _, _, rfl⟩)
  | _ => exact .inl ⟨rfl, rfl⟩

theorem Effect.index_writer (h : Effect s i t) :
    t.i = s.i ∨ (∃ nnn, i = .loadIndex nnn) ∨ (∃ x, i = .addIndex x) ∨ ∃ x, i = .glyphAddress x := by
  cases h with
  | loadIndex => exact .inr (.inl ⟨_, rfl⟩)
  | addIndex => exact .inr (.inr (.inl ⟨_, rfl⟩))
  | glyphAddress => exact .inr (.inr (.inr ⟨_, rfl⟩))
  | _ => exact .inl rfl

theorem Effect.delay_writer (h : Effect s i t) : t.dt = s.dt ∨ ∃ x, i = .setDelay x := by
  cases h with
  | setDelay => exact .inr ⟨_, rfl⟩
  | _ => exact .inl rfl

theorem Effect.sound_writer (h : Effect s i t) : t.st = s.st ∨ ∃ x, i = .setSound x := by
  cases h with
  | setSound => exact .inr ⟨_, rfl⟩
  | _ => exact .inl rfl

theorem Effect.mode_writer (h : Effect s i t) : t.mode = s.mode ∨ ∃ x, i = .waitKey x := by
  cases h with
  | wait => exact .inr ⟨_, rfl⟩
  | _ => exact .inl rfl

theorem Effect.keys_eq (h : Effect s i t) : t.keys = s.keys := by
  cases h <;> rfl

theorem Effect.params_eq (h : Effect s i t) : t.params = s.params := by
  cases h <;> rfl

end

/-! ### The statements -/

/-- Settles O51, by the effects of the instructions. -/
theorem registersChangeOnlyAsDestination : Obligations.RegistersChangeOnlyAsDestination :=
  fun _ _ _ h => ⟨(exec_effect h).reg_eq, (exec_effect h).flag_eq_zero_or_one⟩

/-- Settles O52, by the effects of the instructions: a call pushes only below 15 frames, a return pops only above 0. -/
theorem stackPointerInLockstep : Obligations.StackPointerInLockstep :=
  fun _ _ _ h => ⟨(exec_effect h).sp_moves, (exec_effect h).stack_writer, (exec_effect h).stack_zero⟩

/-- Settles O53, one writer list for each piece of state. -/
theorem stateWritersAreListed : Obligations.StateWritersAreListed := by
  intro i s t h
  have he : Effect s i t := exec_effect h
  exact ⟨he.mem_writer, he.display_writer, he.index_writer, he.delay_writer, he.sound_writer, he.mode_writer, he.keys_eq⟩

end Sys2Proof.Machine
end

section
/-! The invariant: it holds after reset, and every event keeps it. Either the latch is left alone (`State.Inv.of_latch_eq`),
or a sound fault is raised (`State.Inv.raise`). -/

namespace Sys2Proof.Machine

/-! ### Reset -/

/-- Settles O13, field by field. -/
theorem resetStateValues : Obligations.ResetStateValues :=
  ⟨fun q => Vector.getElem_replicate q.isLt, rfl, rfl, rfl, fun _ hj => Vector.getElem_replicate hj, rfl, rfl,
    fun _ => rfl, Framebuffer.cell_blank, rfl, fun k => Vector.getElem_replicate k.isLt, rfl, rfl, rfl⟩

/-- The invariant speaks of none of the model's own fields but the policy, and after reset no fault is latched. -/
theorem State.inv_reset (p : Params) (draws : Nat) (queue : List HostEvent) :
    { State.reset with params := p, draws := draws, hostQueue := queue }.Inv :=
  ⟨State.reset_mem_wf, rfl, nofun, nofun, nofun⟩

/-- Settles O59: after reset memory lists no cell, the stack is zero, and nothing is latched. -/
theorem resetMeetsInvariant : Obligations.ResetMeetsInvariant :=
  fun p => State.inv_reset p _ _

section

variable {s t : State}

/-! ### The two ways of keeping the invariant -/

theorem State.Inv.mem_wf (hs : s.Inv) : s.mem.wf := hs.1

/-- An update that leaves the latch and the policy alone needs to keep the two other clauses only. -/
theorem State.Inv.of_latch_eq (hs : s.Inv) (hmem : t.mem.wf) (hstack : t.stack[0] = s.stack[0])
    (hfault : t.fault = s.fault) (hhalted : t.halted = s.halted) (hparams : t.params = s.params) : t.Inv := by
  obtain ⟨-, hzero, hlatch⟩ := hs
  refine ⟨hmem, hstack.trans hzero, ?_⟩
  rw [hfault, hhalted, hparams]
  exact hlatch

/-- The record latched after a report is an earlier one or the new one (R174). -/
theorem State.raise_fault {kind : FaultKind} {w : Word} {r : FaultRecord} (h : (s.raise kind w).fault = some r) :
    s.fault = some r ∨ s.faultRecord kind w = r := by
  rw [State.raise_eq] at h
  cases hf : s.fault with
  | none => rw [hf] at h; exact .inr (Option.some.inj h)
  | some first => rw [hf] at h; exact .inl h

theorem State.raise_params {kind : FaultKind} {w : Word} : (s.raise kind w).params = s.params := by
  rw [State.raise_eq]

/-- A core that had halted stays halted when a fault is raised, and one that had not halts but for an unrecognized word
under the skip policy (R175). -/
theorem State.raise_halted {kind : FaultKind} {w : Word} :
    (s.raise kind w).halted = true ↔
      s.halted = true ∨ s.params.unrecognizedPolicy = .halt ∨ kind ≠ .unrecognizedOpcode := by
  rw [State.raise_eq]
  cases s.params.unrecognizedPolicy <;> cases kind <;> simp

/-- Raising a fault that its word causes keeps the invariant (R173 to R175). -/
theorem State.Inv.raise {kind : FaultKind} {w : Word} (hs : s.Inv) (hsound : (s.faultRecord kind w).sound) :
    (s.raise kind w).Inv := by
  obtain ⟨hmem, hzero, -, hsounds, hhalts⟩ := hs
  refine ⟨?_, ?_, ?_, fun r hr => ?_, fun r hr hpolicy => State.raise_halted.2 ?_⟩
  · rwa [State.raise_eq]
  · rwa [State.raise_eq]
  · rw [State.raise_eq]; simp
  · rcases State.raise_fault hr with hold | rfl
    · exact hsounds r hold
    · exact hsound
  · rw [State.raise_params] at hpolicy
    rcases State.raise_fault hr with hold | rfl
    · exact .inl (hhalts r hold hpolicy)
    · exact .inr hpolicy

/-! ### Instructions -/

/-- The word of a call is a call, so a stack overflow names the word fetched (R92). -/
theorem decode_encode_call (nnn : Addr12) : decode (encode (.call nnn)) = .op (.call nnn) := by
  simp [encode, decode]

theorem exec_keeps_inv {i : Instr} (hs : s.Inv) (h : exec i s = .next t) : t.Inv := by
  have he : Effect s i t := exec_effect h
  have hkeep := hs.of_latch_eq (he.mem_wf hs.mem_wf) he.stack_zero
  cases he with
  | overflow => exact hs.raise ⟨_, decode_encode_call _⟩
  | underflow => exact hs.raise rfl
  | _ => exact hkeep rfl rfl rfl

/-! ### Steps and the other events -/

theorem State.Inv.waitingStep (hs : s.Inv) (r : RegIx) : (s.waitingStep r).Inv := by
  unfold State.waitingStep
  split
  · exact hs.of_latch_eq hs.mem_wf rfl rfl rfl rfl
  · exact hs

theorem coreStep_keeps_inv (hs : s.Inv) (h : coreStep s = .next t) : t.Inv := by
  rcases coreStep_cases s t h with ⟨-, rfl⟩ | ⟨r, -, -, rfl⟩ | ⟨i, -, -, -, hexec⟩ | ⟨-, -, hdecode, rfl⟩
  · exact hs
  · exact hs.waitingStep r
  · exact exec_keeps_inv hs hexec
  · exact hs.raise hdecode

/-- A program that fits is stored byte by byte, and one that does not changes nothing (R52). -/
theorem State.Inv.loadProgram (hs : s.Inv) (bytes : List Byte) : (s.loadProgram bytes).Inv := by
  unfold State.loadProgram
  split
  · have hmem := s.wf_writeBytes (BitVec.ofNat 16 programBase) bytes hs.mem_wf
    rw [State.writeBytes_eq]
    exact hs.of_latch_eq hmem rfl rfl rfl rfl
  · exact hs

theorem perform_keeps_inv {e : HostEvent} (hs : s.Inv) (h : perform e s = .next t) : t.Inv := by
  cases e with
  | step => exact coreStep_keeps_inv hs h
  | reset => obtain rfl := Host.Outcome.next.inj h; exact State.inv_reset _ _ _
  | loadProgram bytes => obtain rfl := Host.Outcome.next.inj h; exact hs.loadProgram bytes
  | tick | keyEvent | framebufferRead =>
    obtain rfl := Host.Outcome.next.inj h
    exact hs.of_latch_eq hs.mem_wf rfl rfl rfl rfl

end

/-- Settles O60: taking the event from the host's queue keeps the invariant, and so does performing it. -/
theorem stepKeepsInvariant : Obligations.StepKeepsInvariant := by
  intro s t hs h
  have hs' : s.takeEvent.Inv := hs.of_latch_eq hs.mem_wf rfl rfl rfl rfl
  exact perform_keeps_inv hs' h

end Sys2Proof.Machine
end

section
/-! Memory (spec/20_memory.md): a word stored and read back, and what `LoadProgram` leaves in memory. Both follow from the
rules for one byte stored (`State.readByte_writeByte`) and for a sequence of bytes stored (`State.readByte_writeBytes_at`,
`State.readByte_writeBytes_other`). -/

namespace Sys2Proof.Machine

/-! ### Bytes and words stored -/

/-- Settles O44: R41 reduces both addresses, and a store is an update of the memory field. -/
theorem storedByteIsReadBack : Obligations.StoredByteIsReadBack :=
  fun s a b v => ⟨s.readByte_writeByte a b v, rfl⟩

/-- A byte and the next one lie in different cells, also where the second address wraps to 0 (R41). -/
theorem reduce_ne_reduce_succ (a : Word) : reduce a ≠ reduce (a + 1) := by
  rw [reduce_eq, reduce_eq]
  bv_omega

/-- Two bytes stored, high byte first, read back as their word: the second store misses the first (R42). -/
theorem State.readWord_writeByte_writeByte (s : State) (a : Word) (first second : Byte) :
    ((s.writeByte a first).writeByte (a + 1) second).readWord a = wordOfBytes first second := by
  rw [State.readWord, State.readByte_writeByte, if_neg (reduce_ne_reduce_succ a)]
  simp only [State.readByte_writeByte, if_true]

/-- Settles O46: a fetch reads the word at `pc`, and no store moves `pc`. -/
theorem storeIsSeenByNextFetch : Obligations.StoreIsSeenByNextFetch :=
  fun s w => (s.readWord_writeByte_writeByte s.pc _ _).trans (wordOfBytes_highByte_lowByte w)

/-! ### `LoadProgram` (R52) -/

section

variable {s : State} {bytes : List Byte}

theorem loadResult_of_le (h : bytes.length ≤ programMax) : loadResult bytes = .ok :=
  if_neg h.not_gt

theorem loadResult_of_lt (h : programMax < bytes.length) : loadResult bytes = .programTooLarge :=
  if_pos h

theorem State.loadProgram_of_le (h : bytes.length ≤ programMax) :
    s.loadProgram bytes = s.writeBytes (BitVec.ofNat 16 programBase) bytes := by
  rw [State.loadProgram, loadResult_of_le h]

theorem State.loadProgram_of_lt (h : programMax < bytes.length) : s.loadProgram bytes = s := by
  rw [State.loadProgram, loadResult_of_lt h]

/-- A load changes memory only. -/
theorem State.loadProgram_eq (s : State) (bytes : List Byte) :
    s.loadProgram bytes = { s with mem := (s.loadProgram bytes).mem } := by
  rcases Nat.lt_or_ge programMax bytes.length with h | h
  · rw [State.loadProgram_of_lt h]
  · rw [State.loadProgram_of_le h]
    exact s.writeBytes_eq _ _

/-- A program that fits ends inside memory, so that the addresses of its bytes are not reduced. -/
theorem reduce_programBase_add {k : Nat} (hk : k < programMax) :
    reduce (BitVec.ofNat 16 programBase + BitVec.ofNat 16 k) = programBase + k := by
  simp only [programMax, programBase, reduce_eq, BitVec.toNat_add, BitVec.toNat_ofNat] at hk ⊢
  omega

theorem State.readByte_loadProgram_at (h : bytes.length ≤ programMax) (k : Nat) (hk : k < bytes.length) :
    (s.loadProgram bytes).readByte (BitVec.ofNat 16 (programBase + k)) = bytes[k] := by
  rw [State.loadProgram_of_le h, BitVec.ofNat_add]
  exact s.readByte_writeBytes_at _ _ (h.trans (by decide)) k hk

/-- A cell outside the program's range reads as before. -/
theorem State.readByte_loadProgram_other (h : bytes.length ≤ programMax) (a : Word)
    (ha : ¬ (programBase ≤ reduce a ∧ reduce a < programBase + bytes.length)) :
    (s.loadProgram bytes).readByte a = s.readByte a := by
  rw [State.loadProgram_of_le h]
  refine s.readByte_writeBytes_other _ _ _ fun k hk heq => ha ?_
  rw [heq, reduce_programBase_add (hk.trans_le h)]
  omega

theorem step_loadProgram (he : s.nextEvent = .loadProgram bytes) : step s = .next (s.takeEvent.loadProgram bytes) := by
  rw [step_eq, he]
  rfl

theorem nextResult_loadProgram (he : s.nextEvent = .loadProgram bytes) :
    nextResult s = .loaded (loadResult bytes) := by
  rw [nextResult, he]
  rfl

end

/-- Settles O50: a program that fits is stored byte by byte without a wrap, a longer one not at all. -/
theorem loadProgramCopiesOrRefuses : Obligations.LoadProgramCopiesOrRefuses := by
  intro s bytes he
  rw [step_loadProgram he, nextResult_loadProgram he]
  constructor
  · intro hfits
    exact ⟨congrArg _ (loadResult_of_le hfits), _, rfl, s.takeEvent.loadProgram_eq bytes,
      State.readByte_loadProgram_at hfits, State.readByte_loadProgram_other hfits⟩
  · intro hlarge
    exact ⟨congrArg _ (loadResult_of_lt hlarge), congrArg _ (State.loadProgram_of_lt hlarge)⟩

end Sys2Proof.Machine
end

section
/-! Decoding and encoding undo each other (R64 to R68). A word is put together from its fields in one of three layouts
(`encodeA`, `encodeI`, `encodeR`), so the decoder is read on the layouts, and every word is laid out from its own fields. -/

namespace Sys2Proof

/-! ### Decoding a laid-out word -/

theorem decode_encodeR_group8 (x y : RegIx) (n : Nibble) : decode (encodeR 0x8#4 x y n) = decodeGroup8 x y n := by
  simp [decode]

theorem decode_encodeI_groupE (x : RegIx) (kk : Byte) : decode (encodeI 0xE#4 x kk) = decodeGroupE x kk := by
  simp [decode]

theorem decode_encodeI_groupF (x : RegIx) (kk : Byte) : decode (encodeI 0xF#4 x kk) = decodeGroupF x kk := by
  simp [decode]

/-- The low nibble of group 5 is not examined (R68). -/
theorem decode_encodeR_group5 (x y : RegIx) (n : Nibble) : decode (encodeR 0x5#4 x y n) = .op (.skipEqReg x y) := by
  simp [decode]

/-- The low nibble of group 9 is not examined (R68; D24). -/
theorem decode_encodeR_group9 (x y : RegIx) (n : Nibble) : decode (encodeR 0x9#4 x y n) = .op (.skipNeReg x y) := by
  simp [decode]

/-- Settles O8, layout by layout: each group's branch of the decoder reads back the fields the encoder placed. -/
theorem decodeEncodeRoundTrip : Obligations.DecodeEncodeRoundTrip := by
  intro i
  cases i with
  | clearScreen | ret => rfl
  | jump | call | loadIndex | jumpOffset | skipEqImm | skipNeImm | loadImm | addImm | randMask | draw =>
    simp [encode, decode]
  | skipEqReg => exact decode_encodeR_group5 _ _ _
  | skipNeReg => exact decode_encodeR_group9 _ _ _
  | move | or | and | xor | addCarry | subNotBorrow | shiftRight | subRevNotBorrow | shiftLeft =>
    exact decode_encodeR_group8 _ _ _
  | skipKeyPressed | skipKeyNotPressed => exact decode_encodeI_groupE _ _
  | readDelay | waitKey | setDelay | setSound | addIndex | glyphAddress | storeBcd | regDump | regLoad =>
    exact decode_encodeI_groupF _ _

/-! ### A word is laid out from its own fields (R62) -/

section

variable {w : Word}

theorem encodeA_fields {g : BitVec 4} (hg : (fieldG w).toNat = g.toNat) : encodeA g (fieldNNN w) = w := by
  apply BitVec.eq_of_toNat_eq
  rw [encodeA_toNat, ← hg, fieldG_toNat, fieldNNN_toNat]; omega

theorem encodeI_fields {g : BitVec 4} (hg : (fieldG w).toNat = g.toNat) : encodeI g (fieldX w) (fieldKK w) = w := by
  apply BitVec.eq_of_toNat_eq
  rw [encodeI_toNat, ← hg, fieldG_toNat, fieldX_toNat, fieldKK_toNat]; omega

theorem encodeR_fields {g : BitVec 4} (hg : (fieldG w).toNat = g.toNat) :
    encodeR g (fieldX w) (fieldY w) (fieldN w) = w := by
  apply BitVec.eq_of_toNat_eq
  rw [encodeR_toNat, ← hg, fieldG_toNat, fieldX_toNat, fieldY_toNat, fieldN_toNat]; omega

theorem encodeR_and_registers (g : BitVec 4) (x y : RegIx) (n : Nibble) :
    encodeR g x y n &&& 0xFFF0#16 = encodeR g x y 0#4 := by
  have h : (0xFFF0#16 : Word) = (0xF#4 ++ 0xF#4 ++ 0xF#4 ++ 0x0#4 : BitVec (4 + 4 + 4 + 4)) := rfl
  have hones (a : BitVec 4) : a &&& 0xF#4 = a := by simpa using BitVec.and_allOnes (x := a)
  rw [h, encodeR, BitVec.and_append, BitVec.and_append, BitVec.and_append, hones, hones, hones, BitVec.and_zero]
  rfl

/-- A register skip is encoded with a low nibble of 0, whatever its word had there (R68, R72). -/
theorem encodeR_fields_zero {g : BitVec 4} (hg : (fieldG w).toNat = g.toNat) :
    encodeR g (fieldX w) (fieldY w) 0#4 = w &&& 0xFFF0#16 := by
  rw [← encodeR_and_registers, encodeR_fields hg]

/-! ### Encoding what a word decodes to -/

/-- The word with the low nibble cleared where the row does not examine it (R68). -/
def Mnemonic.canonical (m : Mnemonic) (w : Word) : Word :=
  if m.lowNibbleIgnored then w &&& 0xFFF0#16 else w

theorem encodeR_selector {g : BitVec 4} {x y : RegIx} {n k : Nibble} (h : n.toNat = k.toNat) :
    encodeR g x y k = encodeR g x y n := by
  rw [BitVec.eq_of_toNat_eq h]

theorem encodeI_selector {g : BitVec 4} {x : RegIx} {kk k : Byte} (h : kk.toNat = k.toNat) :
    encodeI g x k = encodeI g x kk := by
  rw [BitVec.eq_of_toNat_eq h]

variable {i : Instr}

theorem encode_of_decodeGroup0 (h : decodeGroup0 w = .op i) : encode i = i.mnemonic.canonical w := by
  unfold decodeGroup0 at h
  split at h
  next hw => cases h; exact hw.symm
  split at h
  next hw => cases h; exact hw.symm
  next => cases h

theorem encode_of_decodeGroup8 (hg : (fieldG w).toNat = 0x8)
    (h : decodeGroup8 (fieldX w) (fieldY w) (fieldN w) = .op i) : encode i = i.mnemonic.canonical w := by
  unfold decodeGroup8 at h
  split at h
  all_goals cases h
  all_goals next hn => exact (encodeR_selector hn).trans (encodeR_fields hg)

theorem encode_of_decodeGroupE (hg : (fieldG w).toNat = 0xE) (h : decodeGroupE (fieldX w) (fieldKK w) = .op i) :
    encode i = i.mnemonic.canonical w := by
  unfold decodeGroupE at h
  split at h
  all_goals cases h
  all_goals next hk => exact (encodeI_selector hk).trans (encodeI_fields hg)

theorem encode_of_decodeGroupF (hg : (fieldG w).toNat = 0xF) (h : decodeGroupF (fieldX w) (fieldKK w) = .op i) :
    encode i = i.mnemonic.canonical w := by
  unfold decodeGroupF at h
  split at h
  all_goals cases h
  all_goals next hk => exact (encodeI_selector hk).trans (encodeI_fields hg)

end

/-- Settles O9, by the branches of the decoder: each reads the fields of the layout that its instruction is encoded
in. -/
theorem encodeDecodeRoundTrip : Obligations.EncodeDecodeRoundTrip := by
  intro w i h
  unfold decode at h
  dsimp only at h
  split at h
  case h_1 => exact encode_of_decodeGroup0 h
  case h_9 hg => exact encode_of_decodeGroup8 hg h
  case h_15 hg => exact encode_of_decodeGroupE hg h
  case h_16 =>
    have hg : (fieldG w).toNat = 0xF := by
      have := (fieldG w).isLt
      simp only [imp_false] at *
      omega
    exact encode_of_decodeGroupF hg h
  all_goals cases h
  case h_2 hg | h_3 hg | h_11 hg | h_12 hg => exact encodeA_fields hg
  case h_4 hg | h_5 hg | h_7 hg | h_8 hg | h_13 hg => exact encodeI_fields hg
  case h_6 hg | h_10 hg => exact encodeR_fields_zero hg
  case h_14 hg => exact encodeR_fields hg

/-! ### The unrecognized words (R67) -/

theorem decodeGroup0_eq_unrecognized_iff (w : Word) :
    decodeGroup0 w = .unrecognized ↔ w.toNat ≠ 0x00E0 ∧ w.toNat ≠ 0x00EE := by
  unfold decodeGroup0
  simp only [← BitVec.toNat_inj]
  split
  next hclear => simp [hclear]
  split
  next hret => simp [hret]
  next hclear hret => simpa using And.intro hclear hret

theorem decodeGroup8_eq_unrecognized_iff (x y : RegIx) (n : Nibble) :
    decodeGroup8 x y n = .unrecognized ↔ n.toNat ∈ [0x8, 0x9, 0xA, 0xB, 0xC, 0xD, 0xF] := by
  unfold decodeGroup8
  split
  case h_10 =>
    have := n.isLt
    simp only [imp_false, List.mem_cons, List.not_mem_nil, or_false, true_iff] at *
    omega
  all_goals next hn => simp [hn]

theorem decodeGroupE_eq_unrecognized_iff (x : RegIx) (kk : Byte) :
    decodeGroupE x kk = .unrecognized ↔ kk.toNat ∉ [0x9E, 0xA1] := by
  unfold decodeGroupE
  split
  case h_3 => simp_all
  all_goals next hk => simp [hk]

theorem decodeGroupF_eq_unrecognized_iff (x : RegIx) (kk : Byte) :
    decodeGroupF x kk = .unrecognized ↔
      kk.toNat ∉ [0x07, 0x0A, 0x15, 0x18, 0x1E, 0x29, 0x33, 0x55, 0x65] := by
  unfold decodeGroupF
  split
  case h_10 => simp_all
  all_goals next hk => simp [hk]

/-- Settles O11: of the 16 groups four leave words out, each by its own selector. -/
theorem unrecognizedWordsAreListed : Obligations.UnrecognizedWordsAreListed := by
  intro w
  simp only [← fieldG_toNat, ← fieldN_toNat, ← fieldKK_toNat]
  unfold decode
  dsimp only
  split
  case h_1 hg => simp [hg, decodeGroup0_eq_unrecognized_iff]
  case h_9 hg => simp [hg, decodeGroup8_eq_unrecognized_iff]
  case h_15 hg => simp [hg, decodeGroupE_eq_unrecognized_iff]
  case h_16 =>
    have hg : (fieldG w).toNat = 0xF := by
      have := (fieldG w).isLt
      simp only [imp_false] at *
      omega
    simp [hg, decodeGroupF_eq_unrecognized_iff]
  all_goals next hg => simp [hg]

/-! ### Fields and printed words -/

/-- Settles O7, field by field. -/
theorem fieldsAreSlices : Obligations.FieldsAreSlices :=
  fun w => ⟨fieldG_toNat w, fieldX_toNat w, fieldY_toNat w, fieldN_toNat w, fieldKK_toNat w, fieldNNN_toNat w⟩

/-- Settles O6, by decoding each of the words. -/
theorem printedWordsDecode : Obligations.PrintedWordsDecode :=
  ⟨rfl, rfl, rfl, rfl, rfl, rfl, rfl, rfl, rfl⟩

end Sys2Proof
end

section
/-! The opcode map (R66): a word decodes to the row whose pattern it shows under the row's mask. -/

namespace Sys2Proof

/-! ### From the instruction to its row -/

/-- Every instruction's word lies in the instruction's own row, layout by layout. -/
theorem encode_and_mask (i : Instr) : encode i &&& i.mnemonic.mask = i.mnemonic.pattern := by
  cases i with
  | clearScreen | ret => rfl
  | jump | call | loadIndex | jumpOffset => exact encodeA_and_group _ _
  | skipEqImm | skipNeImm | loadImm | addImm | randMask => exact encodeI_and_group _ _ _
  | skipEqReg | skipNeReg | draw => exact encodeR_and_group _ _ _ _
  | move | or | and | xor | addCarry | subNotBorrow | shiftRight | subRevNotBorrow | shiftLeft =>
    exact encodeR_and_selector _ _ _ _
  | skipKeyPressed | skipKeyNotPressed | readDelay | waitKey | setDelay | setSound | addIndex | glyphAddress
  | storeBcd | regDump | regLoad => exact encodeI_and_selector _ _ _

/-- The mask of a register skip does not look at the nibble its encoding clears. -/
theorem canonical_and_mask (m : Mnemonic) (w : Word) : m.canonical w &&& m.mask = w &&& m.mask := by
  cases m with
  | skipEqReg | skipNeReg => exact BitVec.and_assoc w 0xFFF0#16 0xF000#16
  | _ => rfl

/-! ### From the row to the instruction -/

/-- The instruction of row `m` with the operands that the fields of `w` give (R62, R66). -/
def Mnemonic.instrOf (m : Mnemonic) (w : Word) : Instr :=
  match m with
  | .clearScreen => .clearScreen
  | .ret => .ret
  | .jump => .jump (fieldNNN w)
  | .call => .call (fieldNNN w)
  | .skipEqImm => .skipEqImm (fieldX w) (fieldKK w)
  | .skipNeImm => .skipNeImm (fieldX w) (fieldKK w)
  | .skipEqReg => .skipEqReg (fieldX w) (fieldY w)
  | .loadImm => .loadImm (fieldX w) (fieldKK w)
  | .addImm => .addImm (fieldX w) (fieldKK w)
  | .move => .move (fieldX w) (fieldY w)
  | .or => .or (fieldX w) (fieldY w)
  | .and => .and (fieldX w) (fieldY w)
  | .xor => .xor (fieldX w) (fieldY w)
  | .addCarry => .addCarry (fieldX w) (fieldY w)
  | .subNotBorrow => .subNotBorrow (fieldX w) (fieldY w)
  | .shiftRight => .shiftRight (fieldX w) (fieldY w)
  | .subRevNotBorrow => .subRevNotBorrow (fieldX w) (fieldY w)
  | .shiftLeft => .shiftLeft (fieldX w) (fieldY w)
  | .skipNeReg => .skipNeReg (fieldX w) (fieldY w)
  | .loadIndex => .loadIndex (fieldNNN w)
  | .jumpOffset => .jumpOffset (fieldNNN w)
  | .randMask => .randMask (fieldX w) (fieldKK w)
  | .draw => .draw (fieldX w) (fieldY w) (fieldN w)
  | .skipKeyPressed => .skipKeyPressed (fieldX w)
  | .skipKeyNotPressed => .skipKeyNotPressed (fieldX w)
  | .readDelay => .readDelay (fieldX w)
  | .waitKey => .waitKey (fieldX w)
  | .setDelay => .setDelay (fieldX w)
  | .setSound => .setSound (fieldX w)
  | .addIndex => .addIndex (fieldX w)
  | .glyphAddress => .glyphAddress (fieldX w)
  | .storeBcd => .storeBcd (fieldX w)
  | .regDump => .regDump (fieldX w)
  | .regLoad => .regLoad (fieldX w)

theorem instrOf_mnemonic (m : Mnemonic) (w : Word) : (m.instrOf w).mnemonic = m := by
  cases m <;> rfl

section

variable {w mask pattern : Word}

/-- A slice the mask keeps whole is the pattern's slice. -/
theorem slice_of_masked {start len : Nat} (hmask : mask.extractLsb' start len = BitVec.allOnes len)
    (h : w &&& mask = pattern) : w.extractLsb' start len = pattern.extractLsb' start len := by
  rw [← h, BitVec.extractLsb'_and, hmask, BitVec.and_allOnes]

theorem fieldG_of_masked (hmask : fieldG mask = 0xF#4) (h : w &&& mask = pattern) : fieldG w = fieldG pattern :=
  slice_of_masked hmask h

theorem fieldN_of_masked (hmask : fieldN mask = 0xF#4) (h : w &&& mask = pattern) : fieldN w = fieldN pattern :=
  slice_of_masked hmask h

theorem fieldKK_of_masked (hmask : fieldKK mask = 0xFF#8) (h : w &&& mask = pattern) : fieldKK w = fieldKK pattern :=
  slice_of_masked hmask h

/-- The decoder agrees with the map: the group selects the row, in group 8 with the low nibble, in groups E and F with
the low byte, and in group 0 the whole word. -/
theorem decode_of_masked {m : Mnemonic} (h : w &&& m.mask = m.pattern) : decode w = .op (m.instrOf w) := by
  cases m with
  | clearScreen | ret =>
    obtain rfl : w = _ := BitVec.and_allOnes.symm.trans h
    rfl
  | jump | call | skipEqImm | skipNeImm | skipEqReg | loadImm | addImm | skipNeReg | loadIndex | jumpOffset
  | randMask | draw =>
    rw [decode, fieldG_of_masked rfl h]
    rfl
  | move | or | and | xor | addCarry | subNotBorrow | shiftRight | subRevNotBorrow | shiftLeft =>
    rw [decode, fieldG_of_masked rfl h, fieldN_of_masked rfl h]
    rfl
  | skipKeyPressed | skipKeyNotPressed | readDelay | waitKey | setDelay | setSound | addIndex | glyphAddress
  | storeBcd | regDump | regLoad =>
    rw [decode, fieldG_of_masked rfl h, fieldKK_of_masked rfl h]
    rfl

end

/-- Settles O10: a decoded word is, under the row's mask, the word of its instruction, which lies in the row; and a word
in a row decodes to the row's instruction. -/
theorem decodeFollowsOpcodeMap : Obligations.DecodeFollowsOpcodeMap := by
  intro w m
  constructor
  · rintro ⟨i, hdecode, rfl⟩
    have hencode : encode i = i.mnemonic.canonical w := encodeDecodeRoundTrip w i hdecode
    rw [← canonical_and_mask, ← hencode]
    exact encode_and_mask i
  · intro h
    exact ⟨m.instrOf w, decode_of_masked h, instrOf_mnemonic m w⟩

end Sys2Proof
end

section
/-! Instruction text (R72): the assembler places the operands of a line at their fields, and a line is the text of the
instruction that has those fields. -/

namespace Sys2Proof

/-! ### Placing operands beside a row's pattern -/

theorem encodeA_or (g h : BitVec 4) (a b : Addr12) : encodeA g a ||| encodeA h b = encodeA (g ||| h) (a ||| b) :=
  BitVec.or_append

theorem encodeI_or (g h : BitVec 4) (x z : RegIx) (kk k : Byte) :
    encodeI g x kk ||| encodeI h z k = encodeI (g ||| h) (x ||| z) (kk ||| k) := by
  rw [encodeI, encodeI, BitVec.or_append, BitVec.or_append, encodeI]

theorem encodeR_or (g h : BitVec 4) (x z y u : RegIx) (n k : Nibble) :
    encodeR g x y n ||| encodeR h z u k = encodeR (g ||| h) (x ||| z) (y ||| u) (n ||| k) := by
  rw [encodeR, encodeR, BitVec.or_append, BitVec.or_append, BitVec.or_append, encodeR]

section

variable {pattern bits : Word} {g : BitVec 4}

theorem or_eq_encodeA {nnn : Addr12} (hp : pattern = encodeA g 0#12) (hb : bits = encodeA 0#4 nnn) :
    pattern ||| bits = encodeA g nnn := by
  rw [hp, hb, encodeA_or, BitVec.or_zero, BitVec.zero_or]

theorem or_eq_encodeI {x : RegIx} {kk : Byte} (hp : pattern = encodeI g 0#4 0#8) (hb : bits = encodeI 0#4 x kk) :
    pattern ||| bits = encodeI g x kk := by
  rw [hp, hb, encodeI_or, BitVec.or_zero, BitVec.zero_or, BitVec.zero_or]

theorem or_eq_encodeI_selector {x : RegIx} {kk : Byte} (hp : pattern = encodeI g 0#4 kk)
    (hb : bits = encodeI 0#4 x 0#8) : pattern ||| bits = encodeI g x kk := by
  rw [hp, hb, encodeI_or, BitVec.or_zero, BitVec.zero_or, BitVec.or_zero]

theorem or_eq_encodeR {x y : RegIx} {n : Nibble} (hp : pattern = encodeR g 0#4 0#4 0#4)
    (hb : bits = encodeR 0#4 x y n) : pattern ||| bits = encodeR g x y n := by
  rw [hp, hb, encodeR_or, BitVec.or_zero, BitVec.zero_or, BitVec.zero_or, BitVec.zero_or]

theorem or_eq_encodeR_selector {x y : RegIx} {n : Nibble} (hp : pattern = encodeR g 0#4 0#4 n)
    (hb : bits = encodeR 0#4 x y 0#4) : pattern ||| bits = encodeR g x y n := by
  rw [hp, hb, encodeR_or, BitVec.or_zero, BitVec.zero_or, BitVec.zero_or, BitVec.or_zero]

end

/-! ### Well-formed lines, by format -/

/-- The well-formed lines, each with its operands as the fields they fit (R62, R72). -/
inductive AsmLine.Fits : AsmLine → Prop
  | z {m : Mnemonic} (hm : m.format = .z) : Fits ⟨m, []⟩
  | a {m : Mnemonic} (hm : m.format = .a) (nnn : Addr12) : Fits ⟨m, [nnn.toNat]⟩
  | i {m : Mnemonic} (hm : m.format = .i) (x : RegIx) (kk : Byte) : Fits ⟨m, [x.toNat, kk.toNat]⟩
  | r {m : Mnemonic} (hm : m.format = .r) (x y : RegIx) : Fits ⟨m, [x.toNat, y.toNat]⟩
  /-- A register skip may be given its low nibble. -/
  | rNibble {m : Mnemonic} (hm : m.format = .r) (hskip : m.lowNibbleIgnored = true) (x y : RegIx) (n : Nibble) :
      Fits ⟨m, [x.toNat, y.toNat, n.toNat]⟩
  | d {m : Mnemonic} (hm : m.format = .d) (x y : RegIx) (n : Nibble) : Fits ⟨m, [x.toNat, y.toNat, n.toNat]⟩
  | x {m : Mnemonic} (hm : m.format = .x) (x : RegIx) : Fits ⟨m, [x.toNat]⟩

theorem AsmLine.wf_of_fits {l : AsmLine} (h : l.Fits) : l.wf = true := by
  cases h with
  | z hm => simp [AsmLine.wf, hm]
  | a hm nnn => simpa [AsmLine.wf, hm] using nnn.isLt
  | i hm x kk => simpa [AsmLine.wf, hm] using And.intro x.isLt kk.isLt
  | r hm x y => simpa [AsmLine.wf, hm] using And.intro x.isLt y.isLt
  | rNibble hm hskip x y n => simpa [AsmLine.wf, hm, hskip] using And.intro (And.intro x.isLt y.isLt) n.isLt
  | d hm x y n => simpa [AsmLine.wf, hm] using And.intro (And.intro x.isLt y.isLt) n.isLt
  | x hm x => simpa [AsmLine.wf, hm] using x.isLt

theorem AsmLine.fits_of_wf {l : AsmLine} (h : l.wf = true) : l.Fits := by
  obtain ⟨m, ops⟩ := l
  unfold AsmLine.wf at h
  split at h
  next hm hops => cases hops; exact .z hm
  next nnn hm hops =>
    cases hops
    exact .a hm (BitVec.ofNatLT nnn (of_decide_eq_true h))
  next x kk hm hops =>
    cases hops
    obtain ⟨hx, hkk⟩ : x < 16 ∧ kk < 256 := by simpa using h
    exact .i hm (BitVec.ofNatLT x hx) (BitVec.ofNatLT kk hkk)
  next x y hm hops =>
    cases hops
    obtain ⟨hx, hy⟩ : x < 16 ∧ y < 16 := by simpa using h
    exact .r hm (BitVec.ofNatLT x hx) (BitVec.ofNatLT y hy)
  next x y n hm hops =>
    cases hops
    obtain ⟨⟨⟨hskip, hx⟩, hy⟩, hn⟩ : ((m.lowNibbleIgnored = true ∧ x < 16) ∧ y < 16) ∧ n < 16 := by
      simpa using h
    exact .rNibble hm hskip (BitVec.ofNatLT x hx) (BitVec.ofNatLT y hy) (BitVec.ofNatLT n hn)
  next x y n hm hops =>
    cases hops
    obtain ⟨⟨hx, hy⟩, hn⟩ : (x < 16 ∧ y < 16) ∧ n < 16 := by simpa using h
    exact .d hm (BitVec.ofNatLT x hx) (BitVec.ofNatLT y hy) (BitVec.ofNatLT n hn)
  next x hm hops =>
    cases hops
    exact .x hm (BitVec.ofNatLT x (of_decide_eq_true h))
  next => cases h

/-! ### The text of an instruction -/

/-- Every text is well formed: an operand of an instruction fits its field (R62). -/
theorem text_fits (i : Instr) : i.text.Fits := by
  cases i with
  | clearScreen | ret => exact .z rfl
  | jump nnn | call nnn | loadIndex nnn | jumpOffset nnn => exact .a rfl nnn
  | skipEqImm x kk | skipNeImm x kk | loadImm x kk | addImm x kk | randMask x kk => exact .i rfl x kk
  | draw x y n => exact .d rfl x y n
  | skipEqReg x y | skipNeReg x y | move x y | or x y | and x y | xor x y | addCarry x y | subNotBorrow x y
  | shiftRight x y | subRevNotBorrow x y | shiftLeft x y => exact .r rfl x y
  | skipKeyPressed x | skipKeyNotPressed x | readDelay x | waitKey x | setDelay x | setSound x | addIndex x
  | glyphAddress x | storeBcd x | regDump x | regLoad x => exact .x rfl x

section

variable {m : Mnemonic}

theorem fieldBits_a (hm : m.format = .a) (nnn : Addr12) :
    AsmLine.fieldBits ⟨m, [nnn.toNat]⟩ = encodeA 0#4 nnn := by
  apply BitVec.eq_of_toNat_eq
  simp only [AsmLine.fieldBits, hm, encodeA_toNat, BitVec.toNat_ofNat]
  omega

theorem fieldBits_i (hm : m.format = .i) (x : RegIx) (kk : Byte) :
    AsmLine.fieldBits ⟨m, [x.toNat, kk.toNat]⟩ = encodeI 0#4 x kk := by
  apply BitVec.eq_of_toNat_eq
  simp only [AsmLine.fieldBits, hm, encodeI_toNat, BitVec.toNat_ofNat]
  omega

theorem fieldBits_r (hm : m.format = .r) (x y : RegIx) :
    AsmLine.fieldBits ⟨m, [x.toNat, y.toNat]⟩ = encodeR 0#4 x y 0#4 := by
  apply BitVec.eq_of_toNat_eq
  simp only [AsmLine.fieldBits, hm, encodeR_toNat, BitVec.toNat_ofNat]
  omega

theorem fieldBits_nibble (hm : m.format = .r ∨ m.format = .d) (x y : RegIx) (n : Nibble) :
    AsmLine.fieldBits ⟨m, [x.toNat, y.toNat, n.toNat]⟩ = encodeR 0#4 x y n := by
  apply BitVec.eq_of_toNat_eq
  rcases hm with hm | hm
  all_goals simp only [AsmLine.fieldBits, hm, encodeR_toNat, BitVec.toNat_ofNat]
  all_goals omega

theorem fieldBits_x (hm : m.format = .x) (x : RegIx) :
    AsmLine.fieldBits ⟨m, [x.toNat]⟩ = encodeI 0#4 x 0#8 := by
  apply BitVec.eq_of_toNat_eq
  simp only [AsmLine.fieldBits, hm, encodeI_toNat, BitVec.toNat_ofNat]
  omega

end

/-- "match OR the fields placed by rule R62" is the instruction's word, layout by layout. -/
theorem pattern_or_fieldBits (i : Instr) : i.mnemonic.pattern ||| i.text.fieldBits = encode i := by
  cases i with
  | clearScreen | ret => rfl
  | jump nnn | call nnn | loadIndex nnn | jumpOffset nnn => exact or_eq_encodeA rfl (fieldBits_a rfl nnn)
  | skipEqImm x kk | skipNeImm x kk | loadImm x kk | addImm x kk | randMask x kk =>
    exact or_eq_encodeI rfl (fieldBits_i rfl x kk)
  | draw x y n => exact or_eq_encodeR rfl (fieldBits_nibble (.inr rfl) x y n)
  | skipEqReg x y | skipNeReg x y | move x y | or x y | and x y | xor x y | addCarry x y | subNotBorrow x y
  | shiftRight x y | subRevNotBorrow x y | shiftLeft x y => exact or_eq_encodeR_selector rfl (fieldBits_r rfl x y)
  | skipKeyPressed x | skipKeyNotPressed x | readDelay x | waitKey x | setDelay x | setSound x | addIndex x
  | glyphAddress x | storeBcd x | regDump x | regLoad x => exact or_eq_encodeI_selector rfl (fieldBits_x rfl x)

theorem assemble_of_wf {l : AsmLine} (h : l.wf = true) : assemble l = some (l.mnemonic.pattern ||| l.fieldBits) :=
  if_pos h

theorem assemble_text (i : Instr) : assemble i.text = some (encode i) :=
  (assemble_of_wf (AsmLine.wf_of_fits (text_fits i))).trans (congrArg some (pattern_or_fieldBits i))

/-! ### Reading text back -/

/-- The line assembles, and the decoder reads its instruction back, the low nibble of a register skip left out (R72). -/
def AsmLine.ReadsBack (l : AsmLine) : Prop :=
  ∃ w i, assemble l = some w ∧ decode w = .op i ∧ i.mnemonic = l.mnemonic ∧
    i.text.operands = if l.mnemonic.lowNibbleIgnored then l.operands.take 2 else l.operands

theorem text_readsBack (i : Instr) : i.text.ReadsBack := by
  refine ⟨encode i, i, assemble_text i, decodeEncodeRoundTrip i, rfl, ?_⟩
  cases i <;> rfl

/-- The operands of a format, read from the fields of a word (R64). -/
def Format.operands (f : Format) (w : Word) : List Nat :=
  match f with
  | .z => []
  | .a => [(fieldNNN w).toNat]
  | .i => [(fieldX w).toNat, (fieldKK w).toNat]
  | .r => [(fieldX w).toNat, (fieldY w).toNat]
  | .d => [(fieldX w).toNat, (fieldY w).toNat, (fieldN w).toNat]
  | .x => [(fieldX w).toNat]

theorem text_instrOf (m : Mnemonic) (w : Word) : (m.instrOf w).text = ⟨m, m.format.operands w⟩ := by
  cases m <;> rfl

theorem readsBack_of_operands {l : AsmLine} (h : l.mnemonic.format.operands l.fieldBits = l.operands) :
    l.ReadsBack := by
  have htext : (l.mnemonic.instrOf l.fieldBits).text = l := by rw [text_instrOf, h]
  rw [← htext]
  exact text_readsBack _

/-- The nibble that a register skip is given goes to the low nibble of its word (R72). -/
theorem assemble_nibble {m : Mnemonic} {g : BitVec 4} (hm : m.format = .r) (hskip : m.lowNibbleIgnored = true)
    (hp : m.pattern = encodeR g 0#4 0#4 0#4) (x y : RegIx) (n : Nibble) :
    assemble ⟨m, [x.toNat, y.toNat, n.toNat]⟩ = some (encodeR g x y n) := by
  rw [assemble_of_wf (AsmLine.wf_of_fits (.rNibble hm hskip x y n))]
  exact congrArg some (or_eq_encodeR hp (fieldBits_nibble (.inl hm) x y n))

theorem readsBack_nibble {m : Mnemonic} (hskip : m.lowNibbleIgnored = true) (x y : RegIx) (n : Nibble) :
    AsmLine.ReadsBack ⟨m, [x.toNat, y.toNat, n.toNat]⟩ := by
  cases m with
  | skipEqReg => exact ⟨_, _, assemble_nibble rfl hskip rfl x y n, decode_encodeR_group5 x y n, rfl, rfl⟩
  | skipNeReg => exact ⟨_, _, assemble_nibble rfl hskip rfl x y n, decode_encodeR_group9 x y n, rfl, rfl⟩
  | _ => cases hskip

theorem readsBack_of_fits {l : AsmLine} (h : l.Fits) : l.ReadsBack := by
  cases h with
  | z hm => exact readsBack_of_operands (by simp [hm, Format.operands])
  | a hm nnn => exact readsBack_of_operands (by simp [fieldBits_a hm, hm, Format.operands])
  | i hm x kk => exact readsBack_of_operands (by simp [fieldBits_i hm, hm, Format.operands])
  | r hm x y => exact readsBack_of_operands (by simp [fieldBits_r hm, hm, Format.operands])
  | rNibble hm hskip x y n => exact readsBack_nibble hskip x y n
  | d hm x y n => exact readsBack_of_operands (by simp [fieldBits_nibble (.inr hm), hm, Format.operands])
  | x hm x => exact readsBack_of_operands (by simp [fieldBits_x hm, hm, Format.operands])

/-- Settles O12: an instruction's text fits and assembles, layout by layout; and a line that fits is the text of an
instruction, or a register skip with a nibble that the decoder does not examine. -/
theorem assemblerAgreesWithDecoder : Obligations.AssemblerAgreesWithDecoder :=
  ⟨fun i => ⟨AsmLine.wf_of_fits (text_fits i), assemble_text i⟩,
    fun _ hl => readsBack_of_fits (AsmLine.fits_of_wf hl)⟩

end Sys2Proof
end

section
/-! The fetch, the Step that runs an instruction, and the program counter (R60, R70, R71). -/

namespace Sys2Proof.Machine

/-! ### The fetch (R60) -/

/-- 4096 is a multiple of the memory's size, so `pc + 4096` reaches the same cells (R41). -/
theorem reduce_add_memSize (a : Word) : reduce (a + 4096) = reduce a := by
  rw [reduce_eq, reduce_eq]
  bv_omega

theorem State.readWord_toNat (s : State) (a : Word) :
    (s.readWord a).toNat =
      (s.mem.read (a.toNat % 4096)).toNat * 256 + (s.mem.read ((a.toNat + 1) % 4096)).toNat := by
  have hsucc : reduce (a + 1) = (a.toNat + 1) % 4096 := by rw [reduce_eq]; bv_omega
  rw [State.readWord, wordOfBytes_toNat, State.readByte, State.readByte, hsucc, reduce_eq]

theorem State.readWord_add_memSize (s : State) (a : Word) : s.readWord (a + 4096) = s.readWord a := by
  have hsucc : reduce (a + 4096 + 1) = reduce (a + 1) := by rw [add_right_comm, reduce_add_memSize]
  simp only [State.readWord, State.readByte, reduce_add_memSize, hsucc]

theorem State.fetchWord_at (s : State) (a : Word) : { s with pc := a }.fetchWord = s.readWord a := rfl

/-- Settles O45: a fetch reads the word at `pc`, and `pc + 4096` names the same two cells. -/
theorem fetchIsBigEndian : Obligations.FetchIsBigEndian := by
  intro s
  constructor
  · exact s.readWord_toNat s.pc
  · rw [State.fetchWord_at, State.readWord_add_memSize, State.fetchWord]

/-! ### The Step that runs an instruction (R70) -/

/-- The outcome beside `coreStep_exec`: on a core that fetches, the decoded instruction's. -/
theorem stepOutcome_exec (s : State) (i : Instr) (hh : s.halted = false) (hm : s.mode = .running)
    (hd : decode s.fetchWord = .op i) : stepOutcome s = instrOutcome i s := by
  simp [stepOutcome, hh, hm, hd]

/-- Settles O1: the next event is a Step, and taking it from the queue changes nothing that the Step reads. -/
theorem stepRunsDecodedInstruction : Obligations.StepRunsDecodedInstruction := by
  rintro s i he ⟨hhalted, hmode⟩ hdecode
  rw [step_eq, nextResult, he]
  exact ⟨coreStep_exec s.takeEvent i hhalted hmode hdecode,
    congrArg EventResult.stepped (stepOutcome_exec s.takeEvent i hhalted hmode hdecode)⟩

/-! ### The program counter (R71) -/

theorem State.advance_pc_toNat (s : State) : s.advance.pc.toNat = (s.pc.toNat + 2) % 65536 := rfl

theorem State.skipIf_pc_toNat (s : State) (c : Bool) :
    (s.skipIf c).pc.toNat = (s.pc.toNat + if c = true then 4 else 2) % 65536 := by
  cases c <;> rfl

section

variable {s t : State}

theorem execRet_pc (h : execRet s = .next t) : t.pc = if s.stackEmpty then s.pc else s.top := by
  unfold execRet at h
  split at h
  next hempty => obtain rfl := Host.Outcome.next.inj h; rw [if_pos hempty]; rfl
  next hempty => obtain rfl := Host.Outcome.next.inj h; rw [if_neg hempty]; rfl

theorem execCall_pc {nnn : Addr12} (h : execCall nnn s = .next t) :
    t.pc = if s.stackFull then s.pc else zextAddr nnn := by
  unfold execCall at h
  split at h
  next hfull => obtain rfl := Host.Outcome.next.inj h; rw [if_pos hfull]; rfl
  next hfull => obtain rfl := Host.Outcome.next.inj h; rw [if_neg hfull]; rfl

theorem execWaitKey_pc {x : RegIx} (h : execWaitKey x s = .next t) :
    t.pc = if s.keys.any then s.advance.pc else s.pc := by
  unfold execWaitKey at h
  split at h
  next hany => obtain rfl := Host.Outcome.next.inj h; rw [if_pos hany]; rfl
  next hany => obtain rfl := Host.Outcome.next.inj h; rw [if_neg hany]

/-- The waiting Step goes on exactly when a key is pressed (R154). -/
theorem State.waitingStep_pc (s : State) (r : RegIx) :
    (s.waitingStep r).pc = if s.keys.any then s.advance.pc else s.pc := by
  unfold State.waitingStep
  split
  · rfl
  · rfl

end

/-- Settles O54: an instruction by its class in R71's table, the last of them the sequential ones, then the two Steps
that execute none. -/
theorem programCounterUpdate : Obligations.ProgramCounterUpdate := by
  refine ⟨fun i s t h => ?_, fun s t r h hhalted hmode => ?_, fun s t h ⟨hhalted, hmode⟩ hdecode => ?_⟩
  · cases i with
    | ret =>
      have hpc : t.pc = if s.stackEmpty then s.pc else s.top := execRet_pc h
      cases hempty : s.stackEmpty <;>
        simpa [instrOutcome, Instr.skipCondition, Instr.target, hempty] using hpc
    | call nnn =>
      have hpc : t.pc = if s.stackFull then s.pc else zextAddr nnn := execCall_pc h
      cases hfull : s.stackFull <;>
        simpa [instrOutcome, Instr.skipCondition, Instr.target, hfull] using hpc
    | waitKey x =>
      have hpc : t.pc = if s.keys.any then s.advance.pc else s.pc := execWaitKey_pc h
      cases hany : s.keys.any <;>
        simp [instrOutcome, Instr.skipCondition, Instr.target, hany, hpc]
    | jump | jumpOffset =>
      obtain rfl := Host.Outcome.next.inj h
      rfl
    | skipEqImm | skipNeImm | skipEqReg | skipNeReg | skipKeyPressed | skipKeyNotPressed =>
      obtain rfl := Host.Outcome.next.inj h
      exact s.skipIf_pc_toNat _
    | storeBcd | regDump =>
      obtain rfl := Host.Outcome.next.inj h
      rw [State.writeBytes_eq]
      exact s.advance_pc_toNat
    | regLoad =>
      obtain rfl := Host.Outcome.next.inj h
      rw [State.setRegBlock_eq]
      exact s.advance_pc_toNat
    | _ =>
      obtain rfl := Host.Outcome.next.inj h
      exact s.advance_pc_toNat
  · obtain rfl := Host.Outcome.next.inj ((coreStep_waiting s r hhalted hmode).symm.trans h)
    rw [State.waitingStep_pc, ← Keys.any_iff, ← Keys.any_false_iff]
    exact ⟨fun hany => by rw [if_pos hany]; exact s.advance_pc_toNat, fun hany => by rw [hany]; rfl⟩
  · obtain rfl := Host.Outcome.next.inj ((coreStep_unrecognized s hhalted hmode hdecode).symm.trans h)
    cases hpolicy : s.params.unrecognizedPolicy with
    | halt => simp [State.raise_eq, hpolicy]
    | skip => simp [State.raise_eq, hpolicy]

end Sys2Proof.Machine
end

section
/-! Control transfer (spec/40_control_transfer.md): the jumps and skips, which write `pc` only, then the call and the return,
each with room on the stack (or an active frame) and without. -/

namespace Sys2Proof.Machine

section

variable {s : State}

/-! ### Jumps and skips (R91, R93 to R97) -/

theorem zextAddr_toNat (nnn : Addr12) : (zextAddr nnn).toNat = nnn.toNat :=
  BitVec.toNat_setWidth_of_le (by decide)

theorem State.regWord_toNat (s : State) (x : RegIx) : (s.regWord x).toNat = (s.reg x).toNat :=
  BitVec.toNat_setWidth_of_le (by decide)

/-- A 12-bit address and a byte add up to less than 65536, so the sum does not wrap (R97). -/
theorem zextAddr_add_regWord_toNat (nnn : Addr12) (s : State) (x : RegIx) :
    (zextAddr nnn + s.regWord x).toNat = nnn.toNat + (s.reg x).toNat := by
  rw [BitVec.toNat_add, zextAddr_toNat, State.regWord_toNat]
  omega

theorem State.framePc_setPc (s : State) (a : Word) : s.FramePc (s.setPc a) := ⟨rfl, fun _ => rfl⟩

theorem State.framePc_skipIf (s : State) (c : Bool) : s.FramePc (s.skipIf c) := s.framePc_setPc _

theorem State.setPc_pc_self (s : State) : s.setPc s.pc = s := rfl

/-- The two skip cases of R71, for a test that says `P`. -/
theorem State.skipIf_pc_toNat_of_iff {c : Bool} {P : Prop} [Decidable P] (s : State) (h : c = true ↔ P) :
    (s.skipIf c).pc.toNat = (if P then s.pc.toNat + 4 else s.pc.toNat + 2) % 65536 := by
  rw [State.skipIf_pc_toNat]
  by_cases hP : P
  · rw [if_pos (h.2 hP), if_pos hP]
  · rw [if_neg (mt h.1 hP), if_neg hP]

theorem State.skipIf_beq_pc_toNat (s : State) (a b : Byte) :
    (s.skipIf (a == b)).pc.toNat = (if a.toNat = b.toNat then s.pc.toNat + 4 else s.pc.toNat + 2) % 65536 :=
  s.skipIf_pc_toNat_of_iff (beq_iff_eq.trans BitVec.toNat_inj.symm)

theorem State.skipIf_bne_pc_toNat (s : State) (a b : Byte) :
    (s.skipIf (a != b)).pc.toNat = (if a.toNat ≠ b.toNat then s.pc.toNat + 4 else s.pc.toNat + 2) % 65536 :=
  s.skipIf_pc_toNat_of_iff (bne_iff_ne.trans BitVec.toNat_inj.symm.not)

/-! ### The stack (R14, R15) -/

/-- `SP` does not wrap when it is incremented below 15. -/
theorem State.sp_succ_toNat (hroom : s.sp.toNat < 15) : (s.sp + 1).toNat = s.sp.toNat + 1 := by
  bv_omega

/-- `SP` does not wrap when it is decremented above 0. -/
theorem State.sp_pred_toNat (hactive : 0 < s.sp.toNat) : (s.sp - 1).toNat + 1 = s.sp.toNat := by
  bv_omega

theorem State.top_push (s : State) (a : Word) : (s.push a).top = a :=
  (s.stack_push a _ _).trans (if_pos rfl)

theorem State.frameStack_push_setPc (s : State) (a target : Word) : s.FrameStack ((s.push a).setPc target) :=
  ⟨rfl, fun _ => rfl⟩

theorem State.frameStack_pop_setPc (s : State) (target : Word) : s.FrameStack (s.pop.setPc target) :=
  ⟨rfl, fun _ => rfl⟩

/-! ### Stack faults (R173, R174) -/

theorem State.latchAfter_eq (s : State) (r : FaultRecord) : s.latchAfter r = s.fault.or (some r) := by
  unfold State.latchAfter
  cases s.fault <;> rfl

/-- A stack fault writes the latch only and halts under either policy. -/
theorem State.raise_stackFault {kind : FaultKind} (w : Word) (hkind : kind ≠ .unrecognizedOpcode) :
    s.raise kind w = { s with fault := s.latchAfter (s.faultRecord kind w), halted := true } := by
  rw [State.raise_eq, State.latchAfter_eq, beq_false_of_ne hkind, Bool.false_and, Bool.not_false, Bool.or_true]
  rfl

theorem State.frameLatch_latched (s : State) (latch : Option FaultRecord) (halted : Bool) :
    s.FrameLatch { s with fault := latch, halted := halted } := ⟨rfl, fun _ => rfl⟩

/-! ### The call and the return, by their two cases (R90, R92) -/

theorem exec_call_of_room (nnn : Addr12) (hroom : s.sp.toNat < 15) :
    exec (.call nnn) s = .next ((s.push (s.pc + 2)).setPc (zextAddr nnn)) :=
  if_neg (mt s.stackFull_iff.1 hroom.ne)

theorem instrOutcome_call_of_room (nnn : Addr12) (hroom : s.sp.toNat < 15) :
    instrOutcome (.call nnn) s = .ok false :=
  if_neg (mt s.stackFull_iff.1 hroom.ne)

theorem exec_call_of_full (nnn : Addr12) (hfull : s.sp.toNat = 15) :
    exec (.call nnn) s = .next (s.raise .stackOverflow (encode (.call nnn))) :=
  if_pos (s.stackFull_iff.2 hfull)

theorem instrOutcome_call_of_full (nnn : Addr12) (hfull : s.sp.toNat = 15) :
    instrOutcome (.call nnn) s = .fault (s.faultRecord .stackOverflow (encode (.call nnn))) :=
  if_pos (s.stackFull_iff.2 hfull)

theorem exec_ret_of_active (hactive : 0 < s.sp.toNat) : exec .ret s = .next (s.pop.setPc s.top) :=
  if_neg (mt s.stackEmpty_iff.1 hactive.ne')

theorem instrOutcome_ret_of_active (hactive : 0 < s.sp.toNat) : instrOutcome .ret s = .ok false :=
  if_neg (mt s.stackEmpty_iff.1 hactive.ne')

theorem exec_ret_of_empty (hempty : s.sp.toNat = 0) : exec .ret s = .next (s.raise .stackUnderflow (encode .ret)) :=
  if_pos (s.stackEmpty_iff.2 hempty)

theorem instrOutcome_ret_of_empty (hempty : s.sp.toNat = 0) :
    instrOutcome .ret s = .fault (s.faultRecord .stackUnderflow (encode .ret)) :=
  if_pos (s.stackEmpty_iff.2 hempty)

end

/-! ### The statements -/

/-- Settles O16: the address field is the new `pc`, and writing `pc` its own value changes nothing. -/
theorem jumpSetsPc : Obligations.JumpSetsPc := by
  intro nnn s
  refine ⟨decodeEncodeRoundTrip (.jump nnn), rfl, ⟨_, rfl, zextAddr_toNat nnn, s.framePc_setPc _⟩, fun hpc => ?_⟩
  have htarget : zextAddr nnn = s.pc := BitVec.eq_of_toNat_eq ((zextAddr_toNat nnn).trans hpc.symm)
  rw [exec, execJump, htarget, State.setPc_pc_self]

/-- Settles O17: the sum of the two zero-extended values does not wrap. -/
theorem jumpOffsetAddsRegisterZero : Obligations.JumpOffsetAddsRegisterZero :=
  fun nnn s => ⟨decodeEncodeRoundTrip (.jumpOffset nnn), rfl, _, rfl, zextAddr_add_regWord_toNat nnn s 0,
    s.framePc_setPc _⟩

/-- Settles O18, by the two cases of a skip. -/
theorem immediateSkipsCompare : Obligations.ImmediateSkipsCompare :=
  fun x kk s => ⟨decodeEncodeRoundTrip (.skipEqImm x kk), decodeEncodeRoundTrip (.skipNeImm x kk), rfl, rfl,
    ⟨_, rfl, s.framePc_skipIf _, s.skipIf_beq_pc_toNat _ _⟩, ⟨_, rfl, s.framePc_skipIf _, s.skipIf_bne_pc_toNat _ _⟩⟩

/-- Settles O19, by the two cases of a skip; with `x = y` the test compares a register with itself. -/
theorem skipEqRegCompares : Obligations.SkipEqRegCompares := by
  intro x y n s
  have hpc := s.skipIf_beq_pc_toNat (s.reg x) (s.reg y)
  refine ⟨decode_encodeR_group5 x y n, rfl, _, rfl, s.framePc_skipIf _, hpc, ?_⟩
  rintro rfl
  exact hpc.trans (by rw [if_pos rfl])

/-- Settles O20, by the two cases of a skip; with `x = y` the test compares a register with itself. -/
theorem skipNeRegCompares : Obligations.SkipNeRegCompares := by
  intro x y n s
  have hpc := s.skipIf_bne_pc_toNat (s.reg x) (s.reg y)
  refine ⟨decode_encodeR_group9 x y n, rfl, _, rfl, s.framePc_skipIf _, hpc, ?_⟩
  rintro rfl
  exact hpc.trans (by rw [if_neg (not_not_intro rfl)])

/-- Settles O21: with room, a push and a jump; with 15 frames, a stack fault. -/
theorem callPushesOrOverflows : Obligations.CallPushesOrOverflows := by
  refine fun nnn s => ⟨decodeEncodeRoundTrip (.call nnn), fun hroom => ?_, fun hfull => ?_⟩
  · refine ⟨instrOutcome_call_of_room nnn hroom, _, exec_call_of_room nnn hroom, zextAddr_toNat nnn,
      State.sp_succ_toNat hroom, s.frameStack_push_setPc _ _, fun j hj => ?_⟩
    have hentry := s.stack_push (s.pc + 2) j hj
    rw [State.sp_succ_toNat hroom] at hentry
    exact (congrArg BitVec.toNat hentry).trans (apply_ite BitVec.toNat _ _ _)
  · refine ⟨instrOutcome_call_of_full nnn hfull, _, exec_call_of_full nnn hfull, ?_⟩
    rw [State.raise_stackFault _ (by decide)]
    exact ⟨s.frameLatch_latched _ _, rfl, rfl⟩

/-- Settles O22: with an active frame, a jump to the top entry and a pop; with none, a stack fault. -/
theorem returnPopsOrUnderflows : Obligations.ReturnPopsOrUnderflows := by
  refine fun s => ⟨decodeEncodeRoundTrip .ret, fun hactive => ?_, fun hempty => ?_⟩
  · exact ⟨instrOutcome_ret_of_active hactive, _, exec_ret_of_active hactive, rfl, State.sp_pred_toNat hactive, rfl,
      s.frameStack_pop_setPc _⟩
  · refine ⟨instrOutcome_ret_of_empty hempty, _, exec_ret_of_empty hempty, ?_⟩
    rw [State.raise_stackFault _ (by decide)]
    exact ⟨s.frameLatch_latched _ _, rfl, rfl⟩

/-- Settles O23: the return pops what the call pushed, the address after the call. -/
theorem returnResumesAfterCall : Obligations.ReturnResumesAfterCall := by
  intro nnn s t u hcall hroom hsp htop
  obtain rfl := Host.Outcome.next.inj ((exec_call_of_room nnn hroom).symm.trans hcall)
  have hu : u.sp = s.sp + 1 := hsp
  have htarget : u.top = s.pc + 2 := htop.trans (s.top_push _)
  have hactive : 0 < u.sp.toNat := by rw [hu, State.sp_succ_toNat hroom]; exact Nat.succ_pos _
  refine ⟨_, exec_ret_of_active hactive, ?_, ?_, rfl, u.frameStack_pop_setPc _⟩
  · rw [State.setPc_pc, htarget, BitVec.toNat_add]; rfl
  · rw [State.setPc_sp, State.pop_sp, hu, add_sub_cancel_right]

end Sys2Proof.Machine
end

section
/-! Loads and arithmetic (spec/41_load_and_alu.md): the two register writes first (a result alone; a result, then the
flag), then the flags and the results as numbers, then the index register. -/

namespace Sys2Proof.Machine

section

variable (s : State) (x q : RegIx)

/-! ### A result to `V[x]`, no flag (R110, R111, R113 to R116, R124) -/

theorem State.frameRegs_setReg_advance (r : Byte) : s.FrameRegs (s.setReg x r).advance := ⟨rfl, fun _ => rfl⟩

theorem State.reg_setReg_advance (r : Byte) : (s.setReg x r).advance.reg q = if q = x then r else s.reg q :=
  s.reg_setReg x q r

theorem State.toNat_reg_setReg_advance {r : Byte} {n : Nat} (hr : r.toNat = n) :
    ((s.setReg x r).advance.reg q).toNat = if q = x then n else (s.reg q).toNat := by
  rw [State.reg_setReg_advance, apply_ite BitVec.toNat, hr]

theorem State.getLsbD_reg_setReg_advance {r : Byte} {j : Nat} {bit : Bool} (hr : r.getLsbD j = bit) :
    ((s.setReg x r).advance.reg q).getLsbD j = if q = x then bit else (s.reg q).getLsbD j := by
  rw [State.reg_setReg_advance, apply_ite (BitVec.getLsbD · j), hr]

/-! ### A result to `V[x]`, then the flag to `VF` (R112) -/

theorem State.frameRegs_writeResultFlag (r : Byte) (f : Bool) : s.FrameRegs (s.writeResultFlag x r f) :=
  ⟨rfl, fun _ => rfl⟩

theorem State.writeResultFlag_pc_toNat (r : Byte) (f : Bool) :
    (s.writeResultFlag x r f).pc.toNat = (s.pc.toNat + 2) % 65536 := rfl

/-- The flag is written last, so it stands in `VF` even when `x` is 0xF (D9). -/
theorem State.reg_writeResultFlag (r : Byte) (f : Bool) :
    (s.writeResultFlag x r f).reg q = if q = flagIx then flagByte f else if q = x then r else s.reg q := by
  rw [State.writeResultFlag_eq, State.reg_setPc, State.reg_setReg, State.reg_setReg]

theorem State.toNat_reg_writeResultFlag {r : Byte} {f : Bool} {n flag : Nat} (hr : r.toNat = n)
    (hf : (flagByte f).toNat = flag) :
    ((s.writeResultFlag x r f).reg q).toNat = if q = flagIx then flag else if q = x then n else (s.reg q).toNat := by
  rw [State.reg_writeResultFlag, apply_ite BitVec.toNat, apply_ite BitVec.toNat, hr, hf]

end

/-! ### Flags and results as numbers (R11, R117 to R121) -/

section

variable (a b : Byte)

theorem flagByte_toNat (f : Bool) : (flagByte f).toNat = f.toNat := by
  cases f
  · rfl
  · rfl

theorem flagByte_decide_toNat (P : Prop) [Decidable P] : (flagByte (decide P)).toNat = if P then 1 else 0 := by
  rw [flagByte_toNat, Bool.toNat, Bool.cond_decide]

theorem flagByte_carryOut_toNat : (flagByte (carryOut a b)).toNat = if a.toNat + b.toNat > 255 then 1 else 0 :=
  flagByte_decide_toNat _

theorem flagByte_notBorrow_toNat : (flagByte (notBorrow a b)).toNat = if a.toNat ≥ b.toNat then 1 else 0 :=
  flagByte_decide_toNat _

/-- Bit 0 is the remainder that halving drops. -/
theorem flagByte_shiftedOutLow_toNat : (flagByte (shiftedOutLow b)).toNat = b.toNat % 2 := by
  rw [flagByte_toNat, shiftedOutLow, BitVec.getLsbD, Nat.toNat_testBit, pow_zero, Nat.div_one]

/-- Bit 7 is the top bit of a byte, the carry that doubling drops. -/
theorem flagByte_shiftedOutHigh_toNat : (flagByte (shiftedOutHigh b)).toNat = b.toNat / 128 := by
  have hbit : (flagByte (shiftedOutHigh b)).toNat = b.toNat / 2 ^ 7 % 2 := by
    rw [flagByte_toNat, shiftedOutHigh, BitVec.getLsbD, Nat.toNat_testBit]
  omega

/-- The subtraction modulo 256 in the spelling of R118, the borrowed 256 added first. -/
theorem byte_sub_toNat : (a - b).toNat = (a.toNat + 256 - b.toNat) % 256 := by
  bv_omega

theorem byte_shiftRight_one_toNat : (b >>> 1).toNat = b.toNat / 2 := by
  rw [BitVec.toNat_ushiftRight, Nat.shiftRight_eq_div_pow, pow_one]

theorem byte_shiftLeft_one_toNat : (b <<< 1).toNat = b.toNat * 2 % 256 := by
  rw [BitVec.toNat_shiftLeft, Nat.shiftLeft_eq, pow_one]

end

/-! ### The index register (R122, R123, R143) -/

theorem State.frameIndex_setIndex_advance (s : State) (a : Word) : s.FrameIndex (s.setIndex a).advance :=
  ⟨rfl, fun _ => rfl⟩

theorem State.index_add_regWord_toNat (s : State) (x : RegIx) :
    (s.i + s.regWord x).toNat = (s.i.toNat + (s.reg x).toNat) % 65536 := by
  rw [BitVec.toNat_add, State.regWord_toNat]

/-- Five times a byte is at most 1275, so the product does not wrap at 16 bits (R143). -/
theorem State.regWord_mul_five_toNat (s : State) (x : RegIx) : (s.regWord x * 5).toNat = (s.reg x).toNat * 5 := by
  have hbyte := s.regWord_toNat x
  bv_omega

/-! ### The statements -/

/-- Settles O24: the immediate is the result. -/
theorem loadImmSetsRegister : Obligations.LoadImmSetsRegister :=
  fun x kk s => ⟨decodeEncodeRoundTrip (.loadImm x kk), rfl, _, rfl, s.frameRegs_setReg_advance x _,
    State.advance_pc_toNat _, fun q => s.reg_setReg_advance x q kk⟩

/-- Settles O25: the sum of two bytes is taken modulo 256. -/
theorem addImmWraps : Obligations.AddImmWraps :=
  fun x kk s => ⟨decodeEncodeRoundTrip (.addImm x kk), rfl, _, rfl, s.frameRegs_setReg_advance x _,
    State.advance_pc_toNat _, fun q => s.toNat_reg_setReg_advance x q (BitVec.toNat_add _ _)⟩

/-- Settles O26: each of the four is one register write, and its result is read bit by bit. -/
theorem moveAndBitwiseOperations : Obligations.MoveAndBitwiseOperations :=
  fun x y s =>
    ⟨⟨decodeEncodeRoundTrip (.move x y), rfl, _, rfl, s.frameRegs_setReg_advance x _, State.advance_pc_toNat _,
      fun q _ => s.getLsbD_reg_setReg_advance x q rfl⟩,
    ⟨decodeEncodeRoundTrip (.or x y), rfl, _, rfl, s.frameRegs_setReg_advance x _, State.advance_pc_toNat _,
      fun q _ => s.getLsbD_reg_setReg_advance x q BitVec.getLsbD_or⟩,
    ⟨decodeEncodeRoundTrip (.and x y), rfl, _, rfl, s.frameRegs_setReg_advance x _, State.advance_pc_toNat _,
      fun q _ => s.getLsbD_reg_setReg_advance x q BitVec.getLsbD_and⟩,
    ⟨decodeEncodeRoundTrip (.xor x y), rfl, _, rfl, s.frameRegs_setReg_advance x _, State.advance_pc_toNat _,
      fun q _ => s.getLsbD_reg_setReg_advance x q BitVec.getLsbD_xor⟩⟩

/-- Settles O27: the sum, then the carry. -/
theorem addWithCarryResultAndFlag : Obligations.AddWithCarryResultAndFlag :=
  fun x y s => ⟨decodeEncodeRoundTrip (.addCarry x y), rfl, _, rfl, s.frameRegs_writeResultFlag x _ _,
    s.writeResultFlag_pc_toNat x _ _,
    fun q => s.toNat_reg_writeResultFlag x q (BitVec.toNat_add _ _) (flagByte_carryOut_toNat _ _)⟩

/-- Settles O28: the difference, then "not borrow"; the second subtract is the first with minuend and subtrahend
exchanged. -/
theorem subtractsResultAndFlag : Obligations.SubtractsResultAndFlag :=
  fun x y s =>
    ⟨⟨decodeEncodeRoundTrip (.subNotBorrow x y), rfl, _, rfl, s.frameRegs_writeResultFlag x _ _,
      s.writeResultFlag_pc_toNat x _ _,
      fun q => s.toNat_reg_writeResultFlag x q (byte_sub_toNat _ _) (flagByte_notBorrow_toNat _ _)⟩,
    ⟨decodeEncodeRoundTrip (.subRevNotBorrow x y), rfl, _, rfl, s.frameRegs_writeResultFlag x _ _,
      s.writeResultFlag_pc_toNat x _ _,
      fun q => s.toNat_reg_writeResultFlag x q (byte_sub_toNat _ _) (flagByte_notBorrow_toNat _ _)⟩⟩

/-- Settles O29: under either setting the source register holds the shift's operand; then the shifted byte and the bit
shifted out. -/
theorem shiftsResultAndFlag : Obligations.ShiftsResultAndFlag := by
  intro x y src s hsrc
  have hoperand : s.reg src = s.shiftOperand x y := by
    rw [hsrc, State.shiftOperand]
    cases s.params.shiftSource with
    | vy => rfl
    | vx => rfl
  rw [hoperand]
  exact
    ⟨⟨decodeEncodeRoundTrip (.shiftRight x y), rfl, _, rfl, s.frameRegs_writeResultFlag x _ _,
      s.writeResultFlag_pc_toNat x _ _,
      fun q => s.toNat_reg_writeResultFlag x q (byte_shiftRight_one_toNat _) (flagByte_shiftedOutLow_toNat _)⟩,
    ⟨decodeEncodeRoundTrip (.shiftLeft x y), rfl, _, rfl, s.frameRegs_writeResultFlag x _ _,
      s.writeResultFlag_pc_toNat x _ _,
      fun q => s.toNat_reg_writeResultFlag x q (byte_shiftLeft_one_toNat _) (flagByte_shiftedOutHigh_toNat _)⟩⟩

/-- Settles O30: the address field, zero-extended. -/
theorem loadIndexSetsI : Obligations.LoadIndexSetsI :=
  fun nnn s => ⟨decodeEncodeRoundTrip (.loadIndex nnn), rfl, _, rfl, s.frameIndex_setIndex_advance _,
    State.advance_pc_toNat _, zextAddr_toNat nnn⟩

/-- Settles O31: the sum wraps at 16 bits, the product cannot. -/
theorem indexArithmetic : Obligations.IndexArithmetic :=
  fun x s =>
    ⟨⟨decodeEncodeRoundTrip (.addIndex x), rfl, _, rfl, s.frameIndex_setIndex_advance _, State.advance_pc_toNat _,
      s.index_add_regWord_toNat x⟩,
    ⟨decodeEncodeRoundTrip (.glyphAddress x), rfl, _, rfl, s.frameIndex_setIndex_advance _, State.advance_pc_toNat _,
      s.regWord_mul_five_toNat x⟩⟩

/-- Settles O32: a register write of the masked byte, whatever byte `Config.rnd` gives. -/
theorem randMaskMasksRandomByte : Obligations.RandMaskMasksRandomByte :=
  fun x kk s => ⟨decodeEncodeRoundTrip (.randMask x kk), rfl, _, rfl, rfl, fun _ => rfl, s.advance_pc_toNat,
    fun q _ => s.getLsbD_reg_setReg_advance x q BitVec.getLsbD_and⟩

end Sys2Proof.Machine
end

section
/-! The display (spec/42_display.md): what the two display instructions and the read leave, then `dirty` after any Step,
then the sprite: the cells that a draw toggles, and its collision bit. -/

namespace Sys2Proof.Machine

section

variable {s t : State} {i : Instr}

/-! ### The states that clear-screen and draw leave (R140, R141) -/

theorem exec_clearScreen (s : State) :
    exec .clearScreen s = .next { s with fb := Framebuffer.blank, dirty := true }.advance := rfl

theorem exec_draw (x y : RegIx) (n : Nibble) (s : State) :
    exec (.draw x y n) s =
      .next ({ s with fb := (s.drawn x y n).fb, dirty := true }.setFlag (s.drawn x y n).collision).advance := rfl

theorem State.frameDisplay_draw (s : State) (fb : Framebuffer) (f : Bool) :
    s.FrameDisplay ({ s with fb := fb, dirty := true }.setFlag f).advance := ⟨rfl, fun _ => rfl⟩

theorem State.reg_flag_draw (s : State) (fb : Framebuffer) (f : Bool) :
    ({ s with fb := fb, dirty := true }.setFlag f).advance.reg 0xF = flagByte f :=
  State.reg_setReg_same { s with fb := fb, dirty := true } flagIx _

theorem State.reg_draw_of_ne (s : State) (fb : Framebuffer) (f : Bool) {q : RegIx} (hq : q ≠ 0xF) :
    ({ s with fb := fb, dirty := true }.setFlag f).advance.reg q = s.reg q :=
  State.reg_setReg_of_ne (s := { s with fb := fb, dirty := true }) hq

theorem flagByte_eq_one_iff (f : Bool) : flagByte f = 1 ↔ f = true := by
  cases f <;> decide

theorem flagByte_eq_zero_iff (f : Bool) : flagByte f = 0 ↔ ¬ f = true := by
  cases f <;> decide

/-! ### `dirty` and `redraw` (R146) -/

/-- Clear-screen and draw alone ask for a redraw (R146). -/
theorem instrOutcome_redraw_iff (i : Instr) (s : State) :
    (instrOutcome i s).redraw = true ↔ i = .clearScreen ∨ ∃ x y n, i = .draw x y n := by
  cases i with
  | clearScreen => exact ⟨fun _ => .inl rfl, fun _ => rfl⟩
  | draw x y n => exact ⟨fun _ => .inr ⟨x, y, n, rfl⟩, fun _ => rfl⟩
  | ret => cases h : s.stackEmpty <;> simp [instrOutcome, h, StepOutcome.redraw]
  | call nnn => cases h : s.stackFull <;> simp [instrOutcome, h, StepOutcome.redraw]
  | waitKey x => cases h : s.keys.any <;> simp [instrOutcome, h, StepOutcome.redraw]
  | _ => simp [instrOutcome, StepOutcome.redraw]

/-- An instruction that asks for a redraw sets `dirty`; any other keeps it, since it writes no display state. -/
theorem exec_dirty (h : exec i s = .next t) : t.dirty = (s.dirty || (instrOutcome i s).redraw) := by
  by_cases hredraw : (instrOutcome i s).redraw = true
  · rw [hredraw, Bool.or_true]
    obtain rfl | ⟨x, y, n, rfl⟩ := (instrOutcome_redraw_iff i s).1 hredraw
    · obtain rfl := Host.Outcome.next.inj h; rfl
    · obtain rfl := Host.Outcome.next.inj h; rfl
  · obtain ⟨-, hdirty⟩ := (exec_effect h).display_writer.resolve_right (mt (instrOutcome_redraw_iff i s).2 hredraw)
    rw [Bool.eq_false_of_not_eq_true hredraw, Bool.or_false, hdirty]

theorem State.waitingStep_dirty (s : State) (r : RegIx) : (s.waitingStep r).dirty = s.dirty := by
  unfold State.waitingStep
  split
  · rfl
  · rfl

/-- A Step that runs no instruction asks for no redraw. -/
theorem stepOutcome_redraw_of_not_exec (h : ∀ i, s.halted = false → s.mode = .running → decode s.fetchWord ≠ .op i) :
    (stepOutcome s).redraw = false := by
  unfold stepOutcome
  split
  next => rfl
  next hhalted =>
    split
    next => split <;> rfl
    next hmode =>
      split
      next i hdecode => exact absurd hdecode (h i (Bool.eq_false_of_not_eq_true hhalted) hmode)
      next => rfl

/-! ### The sprite (R141, R144) -/

/-- The rows and columns of the sprite that is read at `I`, as `State.covers` speaks of them. -/
theorem State.covers_iff_rowHit (s : State) (x y : RegIx) (n : Nibble) {r c : Nat} (hr : r < 32) (hc : c < 64) :
    s.covers x y n r c ↔ ∃ row, ∃ h : row < (s.readBytes s.i (rowCount n)).length,
      r % 32 = ((s.reg y).toNat + row) % 32 ∧ rowHit 8 (s.reg x).toNat (s.readBytes s.i (rowCount n))[row] c := by
  simp only [State.readBytes_getElem, State.readBytes_length, rowHit, Nat.mod_eq_of_lt hr, Nat.mod_eq_of_lt hc]
  constructor
  · rintro ⟨row, col, hrow, hcol, hbit, hy, hx⟩
    exact ⟨row, hrow, hy, col, hcol, hbit, hx⟩
  · rintro ⟨row, hrow, hy, col, hcol, hbit, hx⟩
    exact ⟨row, col, hrow, hcol, hbit, hy, hx⟩

theorem State.spriteLength_le (s : State) (n : Nibble) : (s.readBytes s.i (rowCount n)).length ≤ 32 := by
  have := n.isLt
  rw [State.readBytes_length, rowCount]
  omega

theorem State.drawn_cell_of_covers {x y : RegIx} {n : Nibble} {r c : Nat} (hr : r < 32) (hc : c < 64)
    (h : s.covers x y n r c) : (s.drawn x y n).fb.cell r c = !(s.fb.cell r c) :=
  ((Canvas.drawSprite_spec _ _ _ _ (s.spriteLength_le n)).1 r c).1 ((s.covers_iff_rowHit x y n hr hc).1 h)

theorem State.drawn_cell_of_not_covers {x y : RegIx} {n : Nibble} {r c : Nat} (hr : r < 32) (hc : c < 64)
    (h : ¬ s.covers x y n r c) : (s.drawn x y n).fb.cell r c = s.fb.cell r c :=
  ((Canvas.drawSprite_spec _ _ _ _ (s.spriteLength_le n)).1 r c).2 (mt (s.covers_iff_rowHit x y n hr hc).2 h)

/-- The collision bit: a covered cell was set (R142 (d)). -/
theorem State.drawn_collision_iff (s : State) (x y : RegIx) (n : Nibble) :
    (s.drawn x y n).collision = true ↔
      ∃ r c, r < 32 ∧ c < 64 ∧ s.covers x y n r c ∧ s.fb.cell r c = true := by
  rw [State.drawn, (Canvas.drawSprite_spec _ _ _ _ (s.spriteLength_le n)).2]
  simp only [State.readBytes_getElem, State.readBytes_length, Bool.false_eq_true, false_or]
  constructor
  · rintro ⟨row, hrow, col, hcol, hbit, hset⟩
    refine ⟨_, _, Nat.mod_lt _ (by decide), Nat.mod_lt _ (by decide), ⟨row, col, hrow, hcol, hbit, rfl, rfl⟩, ?_⟩
    exact (s.fb.cell_congr _ _ _ _ (Nat.mod_mod _ 32) (Nat.mod_mod _ 64)).trans hset
  · rintro ⟨r, c, -, -, ⟨row, col, hrow, hcol, hbit, rfl, rfl⟩, hset⟩
    refine ⟨row, hrow, col, hcol, hbit, ?_⟩
    exact (s.fb.cell_congr _ _ _ _ (Nat.mod_mod _ 32) (Nat.mod_mod _ 64)).symm.trans hset

/-- The covered cells depend on `I`, the two registers and memory only (R142 (f)). -/
theorem State.covers_congr {u : State} {x y : RegIx} {n : Nibble} (hi : u.i = s.i) (hx : u.reg x = s.reg x)
    (hy : u.reg y = s.reg y) (hmem : s.SameMemory u) (r c : Nat) : u.covers x y n r c ↔ s.covers x y n r c := by
  simp only [State.covers, State.dataAddr, hi, hx, hy, hmem _]

/-! ### A second draw over the first (R142 (f)) -/

section

variable {u : State} {x y : RegIx} {n : Nibble} (hfb : u.fb = (s.drawn x y n).fb)
  (hcovers : ∀ r c, u.covers x y n r c ↔ s.covers x y n r c)

include hfb hcovers

/-- Each covered cell is toggled twice. -/
theorem State.drawn_drawn_fb : (u.drawn x y n).fb = s.fb := by
  refine Framebuffer.ext_cell _ _ fun r c hr hc => ?_
  by_cases h : s.covers x y n r c
  · rw [State.drawn_cell_of_covers hr hc ((hcovers r c).2 h), hfb, State.drawn_cell_of_covers hr hc h, Bool.not_not]
  · rw [State.drawn_cell_of_not_covers hr hc (mt (hcovers r c).1 h), hfb, State.drawn_cell_of_not_covers hr hc h]

/-- The second draw meets a set cell exactly where the first draw set it. -/
theorem State.drawn_drawn_collision_iff :
    (u.drawn x y n).collision = true ↔
      ∃ r c, r < 32 ∧ c < 64 ∧ s.fb.cell r c = false ∧ (s.drawn x y n).fb.cell r c = true := by
  rw [State.drawn_collision_iff]
  refine exists₂_congr fun r c => and_congr_right fun hr => and_congr_right fun hc => ?_
  rw [hcovers, hfb]
  by_cases h : s.covers x y n r c
  · simp [h, State.drawn_cell_of_covers hr hc h]
  · simp [h, State.drawn_cell_of_not_covers hr hc h]

end

end

/-! ### The statements -/

/-- Settles O33: the state that clear-screen leaves, and the two reads after it. -/
theorem clearScreenBlanksAndMarksDirty : Obligations.ClearScreenBlanksAndMarksDirty :=
  fun s => ⟨decodeEncodeRoundTrip .clearScreen, rfl, _, exec_clearScreen s, ⟨rfl, fun _ => rfl⟩, rfl, rfl,
    State.advance_pc_toNat _, Framebuffer.cell_blank, rfl, _, rfl, rfl, rfl⟩

/-- Settles O34: the cells and the collision bit of the drawn sprite, the latter written to `VF`. -/
theorem drawTogglesCoveredCells : Obligations.DrawTogglesCoveredCells := by
  intro x y n s
  refine ⟨decodeEncodeRoundTrip (.draw x y n), rfl, _, exec_draw x y n s, s.frameDisplay_draw _ _, rfl,
    s.advance_pc_toNat, fun r c hr hc => ⟨State.drawn_cell_of_covers hr hc, State.drawn_cell_of_not_covers hr hc⟩,
    fun q hq => s.reg_draw_of_ne _ _ hq, ?_⟩
  rw [State.reg_flag_draw, flagByte_eq_one_iff, flagByte_eq_zero_iff, ← State.drawn_collision_iff]
  exact ⟨id, id⟩

/-- Settles O35: the second draw covers the same cells as the first. -/
theorem drawTwiceRestoresFramebuffer : Obligations.DrawTwiceRestoresFramebuffer := by
  intro x y n s t u hdraw hfb hi hx hy hmem
  obtain rfl := Host.Outcome.next.inj ((exec_draw x y n s).symm.trans hdraw)
  have hcovers : ∀ r c, u.covers x y n r c ↔ s.covers x y n r c := State.covers_congr hi hx hy hmem
  refine ⟨_, exec_draw x y n u, State.drawn_drawn_fb hfb hcovers, (State.reg_setFlag_eq_zero_or_one _ _).symm, ?_⟩
  rw [State.reg_flag_draw, flagByte_eq_one_iff]
  exact State.drawn_drawn_collision_iff hfb hcovers

/-- Settles O36: the read hands back the grid and the flag as they were, and taking the event touches neither. -/
theorem framebufferReadClearsDirty : Obligations.FramebufferReadClearsDirty := by
  intro s he
  rw [step_eq, nextResult, he]
  exact ⟨rfl, rfl⟩

/-- Settles O37, by the four things a Step does. -/
theorem dirtyAccumulatesRedraw : Obligations.DirtyAccumulatesRedraw := by
  intro s t h
  rcases coreStep_cases s t h with
    ⟨hhalted, rfl⟩ | ⟨r, hhalted, hmode, rfl⟩ | ⟨i, hhalted, hmode, hdecode, hexec⟩ | ⟨hhalted, hmode, hdecode, rfl⟩
  · rw [stepOutcome_redraw_of_not_exec (by simp [hhalted]), Bool.or_false]
  · rw [stepOutcome_redraw_of_not_exec (by simp [hmode]), Bool.or_false, State.waitingStep_dirty]
  · rw [stepOutcome_exec s i hhalted hmode hdecode]
    exact exec_dirty hexec
  · rw [stepOutcome_redraw_of_not_exec (by simp [hdecode]), Bool.or_false, State.raise_eq]

end Sys2Proof.Machine
end

section
/-! Keys and timers (spec/43_keys_and_timers.md): the key that `KeySelect` names, the key skips, then the wait for a key by its
two cases, at wait-key's own Step and at the waiting Step. -/

namespace Sys2Proof.Machine

/-! ### The selected key (R6, R153) -/

section

variable {keys : Keys} {k : KeyIx}

theorem Keys.select_lowest_of_cons {ks : List KeyIx} (h : keys.pressedList = k :: ks) : keys.select .lowest = k := by
  rw [Keys.select, h]

theorem Keys.select_free_of_cons {ks : List KeyIx} (h : keys.pressedList = k :: ks) :
    keys.select .free = ((k :: ks)[Config.keyChoice keys % (ks.length + 1)]?).getD k := by
  rw [Keys.select, h]

/-- The free choice is a position taken modulo the length of the list, so it is inside the list. -/
theorem Keys.select_mem_pressedList (how : KeySelect) (h : k ∈ keys.pressedList) :
    keys.select how ∈ keys.pressedList := by
  obtain ⟨first, rest, hlist⟩ := List.exists_cons_of_ne_nil (List.ne_nil_of_mem h)
  rw [hlist]
  cases how with
  | lowest => rw [Keys.select_lowest_of_cons hlist]; exact List.mem_cons_self
  | free =>
    have hinside : Config.keyChoice keys % (rest.length + 1) < (first :: rest).length :=
      Nat.mod_lt _ rest.length.succ_pos
    rw [Keys.select_free_of_cons hlist, List.getElem?_eq_getElem hinside]
    exact List.getElem_mem hinside

theorem Keys.pressed_select (how : KeySelect) (h : keys.pressed k = true) : keys.pressed (keys.select how) = true :=
  (keys.mem_pressedList _).1 (Keys.select_mem_pressedList how ((keys.mem_pressedList k).2 h))

/-- The lowest setting takes the head of the list of pressed keys, which rises. -/
theorem Keys.select_lowest_le (h : keys.pressed k = true) : (keys.select .lowest).toNat ≤ k.toNat := by
  have hmem := (keys.mem_pressedList k).2 h
  have hrises := keys.pressedList_pairwise
  obtain ⟨first, rest, hlist⟩ := List.exists_cons_of_ne_nil (List.ne_nil_of_mem hmem)
  rw [Keys.select_lowest_of_cons hlist]
  rw [hlist] at hmem hrises
  obtain rfl | hrest := List.mem_cons.1 hmem
  · exact le_rfl
  · exact (List.rel_of_pairwise_cons hrises hrest).le

end

section

variable {s : State}

/-! ### The key skips (R150, R151) -/

theorem State.keyOperand_toNat (s : State) (x : RegIx) : (s.keyOperand x).toNat = (s.reg x).toNat % 16 :=
  BitVec.toNat_setWidth 4 _

/-! ### Taking a key (R153, R154) -/

/-- The key's index is zero-extended, so the register holds it as a number. -/
theorem State.takeKey_reg_toNat (s : State) (r q : RegIx) :
    ((s.takeKey r).reg q).toNat =
      if q = r then (s.keys.select s.params.keySelect).toNat else (s.reg q).toNat :=
  s.toNat_reg_setReg_advance r q (BitVec.toNat_setWidth_of_le (by decide))

theorem State.frameRegs_takeKey (s : State) (r : RegIx) : s.FrameRegs (s.takeKey r) :=
  s.frameRegs_setReg_advance r _

theorem exec_waitKey_of_any (x : RegIx) (hany : s.keys.any = true) : exec (.waitKey x) s = .next (s.takeKey x) :=
  if_pos hany

theorem instrOutcome_waitKey_of_any (x : RegIx) (hany : s.keys.any = true) : instrOutcome (.waitKey x) s = .ok false :=
  if_pos hany

theorem State.waitingStep_of_any (r : RegIx) (hany : s.keys.any = true) :
    s.waitingStep r = { s.takeKey r with mode := .running } :=
  if_pos hany

/-! ### Waiting on (R153, R154) -/

theorem exec_waitKey_of_none (x : RegIx) (hnone : s.keys.any = false) :
    exec (.waitKey x) s = .next { s with mode := .awaitingKey x } :=
  if_neg (Bool.eq_false_iff.1 hnone)

theorem instrOutcome_waitKey_of_none (x : RegIx) (hnone : s.keys.any = false) :
    instrOutcome (.waitKey x) s = .waiting :=
  if_neg (Bool.eq_false_iff.1 hnone)

theorem State.waitingStep_of_none (r : RegIx) (hnone : s.keys.any = false) : s.waitingStep r = s :=
  if_neg (Bool.eq_false_iff.1 hnone)

/-- The outcome beside `coreStep_waiting`: the key test's. -/
theorem stepOutcome_waiting (s : State) (r : RegIx) (hh : s.halted = false) (hm : s.mode = .awaitingKey r) :
    stepOutcome s = if s.keys.any then .ok false else .waiting := by
  simp [stepOutcome, hh, hm]

end

/-! ### The statements -/

/-- Settles O3: the waiting Step by its key test; taking the event from the queue touches neither latch nor
registers. -/
theorem waitingStepRepeatsKeyTest : Obligations.WaitingStepRepeatsKeyTest := by
  intro s r he hhalted hmode
  rw [step_eq, nextResult, he, perform, eventResult, coreStep_waiting s.takeEvent r hhalted hmode,
    stepOutcome_waiting s.takeEvent r hhalted hmode]
  refine ⟨fun hnone => ?_, fun hpressed => ?_⟩
  · have hnone : s.takeEvent.keys.any = false := s.keys.any_false_iff.2 hnone
    rw [State.waitingStep_of_none r hnone, hnone]
    exact ⟨rfl, rfl⟩
  · have hany : s.takeEvent.keys.any = true := s.keys.any_iff.2 hpressed
    obtain ⟨k, hk⟩ := hpressed
    rw [State.waitingStep_of_any r hany, hany]
    exact ⟨_, _, rfl, rfl, Keys.pressed_select s.params.keySelect hk, rfl, s.takeEvent.takeKey_reg_toNat r⟩

/-- Settles O39, by the key test. -/
theorem waitKeyTakesOrWaits : Obligations.WaitKeyTakesOrWaits := by
  refine fun x s => ⟨decodeEncodeRoundTrip (.waitKey x), fun hpressed => ?_, fun hnone => ?_⟩
  · have hany := s.keys.any_iff.2 hpressed
    obtain ⟨k, hk⟩ := hpressed
    exact ⟨instrOutcome_waitKey_of_any x hany, _, _, exec_waitKey_of_any x hany,
      Keys.pressed_select s.params.keySelect hk, s.frameRegs_takeKey x, s.advance_pc_toNat, s.takeKey_reg_toNat x⟩
  · have hnone := s.keys.any_false_iff.2 hnone
    exact ⟨instrOutcome_waitKey_of_none x hnone, exec_waitKey_of_none x hnone⟩

/-- Settles O40: the selected key is pressed, so it is the only pressed key when there is one only. -/
theorem selectedKeyIsPressed : Obligations.SelectedKeyIsPressed :=
  fun _ how _ hk => ⟨Keys.pressed_select how hk, Keys.select_lowest_le hk,
    fun honly => honly _ (Keys.pressed_select how hk)⟩

/-- Settles O38: `k` is the key operand, and the two skips are each other's negation. -/
theorem keySkipsTestLatch : Obligations.KeySkipsTestLatch := by
  intro x s k hk
  obtain rfl : k = s.keyOperand x := BitVec.eq_of_toNat_eq (hk.trans (s.keyOperand_toNat x).symm)
  exact
    ⟨⟨decodeEncodeRoundTrip (.skipKeyPressed x), rfl, _, rfl, s.framePc_skipIf _,
      s.skipIf_pc_toNat_of_iff Iff.rfl⟩,
    ⟨decodeEncodeRoundTrip (.skipKeyNotPressed x), rfl, _, rfl, s.framePc_skipIf _,
      s.skipIf_pc_toNat_of_iff (Bool.not_eq_true' _).to_iff⟩⟩

/-- Settles O41: one register write of `DT`, and two timer writes. -/
theorem timerInstructionsCopy : Obligations.TimerInstructionsCopy :=
  fun x s =>
    ⟨⟨decodeEncodeRoundTrip (.readDelay x), rfl, _, rfl, s.frameRegs_setReg_advance x _, State.advance_pc_toNat _,
      fun q => s.reg_setReg_advance x q s.dt⟩,
    ⟨decodeEncodeRoundTrip (.setDelay x), rfl, _, rfl, rfl, fun _ => rfl, s.advance_pc_toNat⟩,
    ⟨decodeEncodeRoundTrip (.setSound x), rfl, _, rfl, rfl, fun _ => rfl, s.advance_pc_toNat⟩⟩

end Sys2Proof.Machine
end

section
/-! The memory transfers (spec/44_memory_transfer.md): a block of bytes stored from `I` upwards, for store-bcd and reg-dump,
then the block of registers that reg-load reads. -/

namespace Sys2Proof.Machine

section

variable (s : State)

/-! ### A block stored from `I` upwards (R160, R161, R163) -/

theorem State.frameStore_writeBytes_advance (a : Word) (bs : List Byte) : s.FrameStore (s.writeBytes a bs).advance := by
  rw [State.writeBytes_eq]
  rfl

theorem State.writeBytes_advance_pc_toNat (a : Word) (bs : List Byte) :
    (s.writeBytes a bs).advance.pc.toNat = (s.pc.toNat + 2) % 65536 := by
  rw [State.writeBytes_eq]
  rfl

theorem State.readByte_storedBlock_at {bs : List Byte} (hn : bs.length ≤ 4096) (k : Nat) (hk : k < bs.length) :
    (s.writeBytes s.i bs).advance.readByte (s.dataAddr k) = bs[k] :=
  s.readByte_writeBytes_at s.i bs hn k hk

theorem State.readByte_storedBlock_other {bs : List Byte} {n : Nat} (hn : bs.length = n) {a : Word}
    (ha : ¬ s.stores n a) : (s.writeBytes s.i bs).advance.readByte a = s.readByte a :=
  s.readByte_writeBytes_other s.i a bs fun k hk heq => ha ⟨k, hn ▸ hk, heq⟩

/-- A dump stores at most 16 bytes, so none of them overwrites another (R161). -/
theorem State.readByte_dump {x k : RegIx} (hk : k.toNat ≤ x.toNat) :
    (s.writeBytes s.i (s.regBlock x)).advance.readByte (s.dataAddr k.toNat) = s.reg k := by
  have hlength := s.regBlock_length x
  have hx := x.isLt
  rw [s.readByte_storedBlock_at (by omega) k.toNat (by omega), State.regBlock_getElem, BitVec.ofNat_toNat,
    BitVec.setWidth_eq]

/-! ### The block of registers loaded (R162) -/

theorem State.frameRegs_setRegBlock_advance (k : RegIx) (bs : List Byte) :
    s.FrameRegs (s.setRegBlock k bs).advance := by
  rw [State.setRegBlock_eq]
  exact ⟨rfl, fun _ => rfl⟩

theorem State.setRegBlock_advance_pc_toNat (k : RegIx) (bs : List Byte) :
    (s.setRegBlock k bs).advance.pc.toNat = (s.pc.toNat + 2) % 65536 := by
  rw [State.setRegBlock_eq]
  rfl

/-- From `V[0]` upwards, `x + 1` bytes never pass `V[15]`, so that each lands in the register of its own number. -/
theorem State.reg_load (x q : RegIx) :
    (s.setRegBlock 0 (s.readBytes s.i (x.toNat + 1))).advance.reg q =
      if q.toNat ≤ x.toNat then s.readByte (s.dataAddr q.toNat) else s.reg q := by
  have hlength := s.readBytes_length s.i (x.toNat + 1)
  have hx := x.isLt
  have hzero : (0 : RegIx).toNat = 0 := rfl
  refine (s.reg_setRegBlock 0 _ (by omega) q).trans ?_
  by_cases hq : q.toNat ≤ x.toNat
  · rw [dif_pos (by omega), if_pos hq]
    exact s.readBytes_getElem s.i _ q.toNat (by omega)
  · rw [dif_neg (by omega), if_neg hq]

/-- A load by the same `x` and `I`, from the memory a dump left, gives the dumped registers back. -/
theorem State.reg_load_of_dump {u : State} {x q : RegIx} (hq : q.toNat ≤ x.toNat)
    (hmem : (s.writeBytes s.i (s.regBlock x)).advance.SameMemory u) (hi : u.i = s.i) :
    (u.setRegBlock 0 (u.readBytes u.i (x.toNat + 1))).advance.reg q = s.reg q := by
  have haddr : u.dataAddr q.toNat = s.dataAddr q.toNat := by rw [State.dataAddr, State.dataAddr, hi]
  rw [u.reg_load, if_pos hq, haddr, hmem, s.readByte_dump hq]

end

/-! ### The digits of a byte (R160) -/

theorem bcdDigits_length (b : Byte) : (bcdDigits b).length = 3 := rfl

/-- A digit is at most the byte it is a digit of, so it fits a byte itself. -/
theorem State.readByte_storedDigit_toNat (s : State) {b : Byte} {k n : Nat} (hk : k < 3)
    (hdigit : (bcdDigits b)[k]'hk = BitVec.ofNat 8 n) (hn : n ≤ b.toNat) :
    ((s.writeBytes s.i (bcdDigits b)).advance.readByte (s.dataAddr k)).toNat = n := by
  have hlength := bcdDigits_length b
  rw [s.readByte_storedBlock_at (bs := bcdDigits b) (by omega) k hk, hdigit]
  exact Nat.mod_eq_of_lt (hn.trans_lt b.isLt)

/-! ### The statements -/

/-- Settles O47: the three digits are a block stored from `I` upwards. -/
theorem storeBcdWritesThreeDigits : Obligations.StoreBcdWritesThreeDigits :=
  fun x s => ⟨decodeEncodeRoundTrip (.storeBcd x), rfl, _, rfl, s.frameStore_writeBytes_advance s.i _,
    s.writeBytes_advance_pc_toNat s.i _, s.readByte_storedDigit_toNat (by decide) rfl (by omega),
    s.readByte_storedDigit_toNat (by decide) rfl (by omega), s.readByte_storedDigit_toNat (by decide) rfl (by omega),
    fun _ => s.readByte_storedBlock_other (bcdDigits_length _)⟩

/-- Settles O48: the registers are a block stored from `I` upwards. -/
theorem regDumpStoresBlock : Obligations.RegDumpStoresBlock :=
  fun x s => ⟨decodeEncodeRoundTrip (.regDump x), rfl, _, rfl, s.frameStore_writeBytes_advance s.i _,
    s.writeBytes_advance_pc_toNat s.i _, fun _ => s.readByte_dump,
    fun _ => s.readByte_storedBlock_other (s.regBlock_length x)⟩

/-- Settles O49: the load register by register, then the load of what a dump stored. -/
theorem regLoadReadsBlockAndUndoesDump : Obligations.RegLoadReadsBlockAndUndoesDump := by
  refine fun x s => ⟨decodeEncodeRoundTrip (.regLoad x), rfl,
    ⟨_, rfl, s.frameRegs_setRegBlock_advance 0 _, s.setRegBlock_advance_pc_toNat 0 _, s.reg_load x⟩,
    fun d u hdump hmem hi => ?_⟩
  obtain rfl := Host.Outcome.next.inj hdump
  exact ⟨_, rfl, fun _ hq => s.reg_load_of_dump hq hmem hi⟩

end Sys2Proof.Machine
end

section
/-! The faults (spec/60_exceptions.md): each kind by its cause in the fetched word and `SP`, then a Step by its
two cases: with a cause it raises that fault (`State.FaultCause.step`), without one it leaves the latch alone
(`coreStep_faultCause_or_latch_eq`). -/

namespace Sys2Proof.Machine

/-- What causes a fault of each kind on a core that fetches (R170, R171). -/
def State.FaultCause (s : State) : FaultKind → Prop
  | .unrecognizedOpcode => decode s.fetchWord = .unrecognized
  | .stackOverflow => (∃ nnn, decode s.fetchWord = .op (.call nnn)) ∧ s.sp.toNat = 15
  | .stackUnderflow => decode s.fetchWord = .op .ret ∧ s.sp.toNat = 0

section

variable {s t : State} {i : Instr} {kind : FaultKind}

/-! ### Raising a fault, by whether the core passes over it or halts (R173 to R175) -/

theorem State.raise_passedOver (w : Word)
    (h : kind = .unrecognizedOpcode ∧ s.params.unrecognizedPolicy = .skip) :
    s.raise kind w = { s with fault := s.latchAfter (s.faultRecord kind w), pc := s.pc + 2 } := by
  obtain ⟨rfl, hskip⟩ := h
  simp [State.raise_eq, State.latchAfter_eq, hskip]

theorem State.raise_halting (w : Word)
    (h : ¬ (kind = .unrecognizedOpcode ∧ s.params.unrecognizedPolicy = .skip)) :
    s.raise kind w = { s with fault := s.latchAfter (s.faultRecord kind w), halted := true } := by
  have hnotskip : (kind == .unrecognizedOpcode && s.params.unrecognizedPolicy == .skip) = false := by simpa using h
  rw [State.raise_eq, State.latchAfter_eq, hnotskip, Bool.not_false, Bool.or_true]
  rfl

theorem State.raise_latch (s : State) (kind : FaultKind) (w : Word) :
    (s.raise kind w).fault = s.latchAfter (s.faultRecord kind w) := by
  rw [State.raise_eq, State.latchAfter_eq]

/-- A second report does not reach the latch (R174). -/
theorem State.latchAfter_of_latched (r : FaultRecord) (h : s.fault ≠ none) : s.latchAfter r = s.fault := by
  obtain ⟨first, hfirst⟩ := Option.ne_none_iff_exists'.1 h
  rw [State.latchAfter_eq, hfirst, Option.some_or]

/-! ### The outcomes beside `coreStep_halted` and `coreStep_unrecognized` (R70) -/

theorem stepOutcome_halted (s : State) (hh : s.halted = true) : stepOutcome s = .halted :=
  if_pos hh

theorem stepOutcome_unrecognized (s : State) (hh : s.halted = false) (hm : s.mode = .running)
    (hd : decode s.fetchWord = .unrecognized) :
    stepOutcome s = .fault (s.faultRecord .unrecognizedOpcode s.fetchWord) := by
  simp [stepOutcome, hh, hm, hd]

/-! ### A Step with a cause raises its fault -/

/-- The word a stack fault records is the word fetched: neither a call nor a return ignores its low nibble (R68, R170). -/
theorem encode_eq_of_decode {w : Word} (hd : decode w = .op i) (hi : i.mnemonic.lowNibbleIgnored = false) :
    encode i = w := by
  rw [encodeDecodeRoundTrip w i hd, hi, if_neg Bool.false_ne_true]

theorem State.FaultCause.step (hc : s.FaultCause kind) (hs : s.fetches) :
    coreStep s = .next (s.raise kind s.fetchWord) ∧
      stepOutcome s = .fault (s.faultRecord kind s.fetchWord) := by
  obtain ⟨hhalted, hmode⟩ := hs
  cases kind with
  | unrecognizedOpcode =>
    exact ⟨coreStep_unrecognized s hhalted hmode hc, stepOutcome_unrecognized s hhalted hmode hc⟩
  | stackOverflow =>
    obtain ⟨⟨nnn, hd⟩, hfull⟩ := hc
    rw [coreStep_exec s _ hhalted hmode hd, stepOutcome_exec s _ hhalted hmode hd, ← encode_eq_of_decode hd rfl]
    exact ⟨exec_call_of_full nnn hfull, instrOutcome_call_of_full nnn hfull⟩
  | stackUnderflow =>
    obtain ⟨hd, hempty⟩ := hc
    rw [coreStep_exec s _ hhalted hmode hd, stepOutcome_exec s _ hhalted hmode hd, ← encode_eq_of_decode hd rfl]
    exact ⟨exec_ret_of_empty hempty, instrOutcome_ret_of_empty hempty⟩

/-! ### Any other Step leaves the latch alone -/

theorem Effect.latch_eq (h : Effect s i t) (hcall : ∀ nnn, i ≠ .call nnn) (hret : i ≠ .ret) :
    t.fault = s.fault ∧ t.halted = s.halted := by
  cases h with
  | overflow => exact absurd rfl (hcall _)
  | underflow => exact absurd rfl hret
  | _ => exact ⟨rfl, rfl⟩

theorem instrOutcome_ne_fault (r : FaultRecord) (hcall : ∀ nnn, i ≠ .call nnn) (hret : i ≠ .ret) :
    instrOutcome i s ≠ .fault r := by
  cases i with
  | call nnn => exact absurd rfl (hcall nnn)
  | ret => exact absurd rfl hret
  | waitKey x => cases hany : s.keys.any <;> simp [instrOutcome, hany]
  | _ => nofun

theorem State.sp_lt_or_full (s : State) : s.sp.toNat < 15 ∨ s.sp.toNat = 15 := by
  have := s.sp.isLt
  omega

/-- An instruction that was fetched has a cause to fault, or neither faults nor touches the latch (R171). -/
theorem exec_faultCause_or_latch_eq (hd : decode s.fetchWord = .op i) (h : exec i s = .next t) :
    (∃ kind, s.FaultCause kind) ∨
      (∀ r, instrOutcome i s ≠ .fault r) ∧ t.fault = s.fault ∧ t.halted = s.halted := by
  cases i with
  | call nnn =>
    rcases s.sp_lt_or_full with hroom | hfull
    · obtain rfl := Host.Outcome.next.inj ((exec_call_of_room nnn hroom).symm.trans h)
      exact .inr ⟨by simp [instrOutcome_call_of_room nnn hroom], rfl, rfl⟩
    · exact .inl ⟨.stackOverflow, ⟨nnn, hd⟩, hfull⟩
  | ret =>
    rcases Nat.eq_zero_or_pos s.sp.toNat with hempty | hactive
    · exact .inl ⟨.stackUnderflow, hd, hempty⟩
    · obtain rfl := Host.Outcome.next.inj ((exec_ret_of_active hactive).symm.trans h)
      exact .inr ⟨by simp [instrOutcome_ret_of_active hactive], rfl, rfl⟩
  | _ => exact .inr ⟨fun r => instrOutcome_ne_fault r nofun nofun, (exec_effect h).latch_eq nofun nofun⟩

theorem State.waitingStep_latch (s : State) (r : RegIx) :
    (s.waitingStep r).fault = s.fault ∧ (s.waitingStep r).halted = s.halted := by
  unfold State.waitingStep
  split
  · exact ⟨rfl, rfl⟩
  · exact ⟨rfl, rfl⟩

/-- A Step that has no cause to fault neither faults nor touches the latch (R171). -/
theorem coreStep_faultCause_or_latch_eq (h : coreStep s = .next t) :
    (∃ kind, s.fetches ∧ s.FaultCause kind) ∨
      (∀ r, stepOutcome s ≠ .fault r) ∧ t.fault = s.fault ∧ t.halted = s.halted := by
  rcases coreStep_cases s t h with
    ⟨hhalted, rfl⟩ | ⟨r, hhalted, hmode, rfl⟩ | ⟨i, hhalted, hmode, hdecode, hexec⟩ | ⟨hhalted, hmode, hdecode, -⟩
  · exact .inr ⟨by simp [stepOutcome_halted t hhalted], rfl, rfl⟩
  · refine .inr ⟨?_, s.waitingStep_latch r⟩
    rw [stepOutcome_waiting s r hhalted hmode]
    cases s.keys.any <;> nofun
  · rw [stepOutcome_exec s i hhalted hmode hdecode]
    exact (exec_faultCause_or_latch_eq hdecode hexec).imp_left
      fun ⟨kind, hcause⟩ => ⟨kind, ⟨hhalted, hmode⟩, hcause⟩
  · exact .inl ⟨.unrecognizedOpcode, ⟨hhalted, hmode⟩, hdecode⟩

/-! ### What is latched stays (R174, R176) -/

theorem coreStep_keeps_latched (h : coreStep s = .next t) (hlatched : s.fault ≠ none) : t.fault = s.fault := by
  rcases coreStep_faultCause_or_latch_eq h with ⟨kind, hs, hcause⟩ | ⟨-, hfault, -⟩
  · obtain ⟨hstep, -⟩ := hcause.step hs
    obtain rfl := Host.Outcome.next.inj (hstep.symm.trans h)
    exact (s.raise_latch kind _).trans (State.latchAfter_of_latched _ hlatched)
  · exact hfault

theorem coreStep_keeps_halted (h : coreStep s = .next t) (hh : s.halted = true) : t.halted = true := by
  obtain rfl := Host.Outcome.next.inj ((coreStep_halted s hh).symm.trans h)
  exact hh

/-- The events that are neither Step nor `Reset` write neither the latch nor the halt. -/
theorem perform_keeps_latch {e : HostEvent} (he : e ≠ .reset) (h : perform e s = .next t) :
    (s.fault ≠ none → t.fault = s.fault) ∧ (s.halted = true → t.halted = true) := by
  cases e with
  | reset => exact absurd rfl he
  | step => exact ⟨coreStep_keeps_latched h, coreStep_keeps_halted h⟩
  | loadProgram bytes =>
    obtain rfl := Host.Outcome.next.inj h
    rw [State.loadProgram_eq]
    exact ⟨fun _ => rfl, id⟩
  | tick | keyEvent | framebufferRead =>
    obtain rfl := Host.Outcome.next.inj h
    exact ⟨fun _ => rfl, id⟩

end

/-! ### The statements -/

/-- Settles O4: an unrecognized word is the cause of its fault, which is raised as the policy says. -/
theorem unrecognizedWordIsReported : Obligations.UnrecognizedWordIsReported := by
  intro s he hs hdecode
  have hcause : s.takeEvent.FaultCause .unrecognizedOpcode := hdecode
  obtain ⟨hstep, houtcome⟩ := hcause.step hs
  refine ⟨_, ?_, ?_, s.takeEvent.raise_latch _ _, ?_⟩
  · rw [step_eq, he]; exact hstep
  · rw [nextResult, he]; exact congrArg _ houtcome
  · rw [State.raise_latch]
    cases hpolicy : s.params.unrecognizedPolicy with
    | halt => exact State.raise_halting (s := s.takeEvent) _ (by simp [State.takeEvent, hpolicy])
    | skip => exact State.raise_passedOver (s := s.takeEvent) _ ⟨rfl, hpolicy⟩

/-- Settles O55: a Step faults exactly when a cause is there, and only a call or a return is the cause of a stack
fault. -/
theorem faultsHaveTheirCauses : Obligations.FaultsHaveTheirCauses := by
  refine ⟨fun s r hs => ⟨fun hfault => ?_, fun ⟨hr, hcause⟩ => ?_⟩,
    fun i s t hcall hret h => (exec_effect h).latch_eq hcall hret⟩
  · obtain ⟨t, h⟩ := coreStep_hasNext s
    rcases coreStep_faultCause_or_latch_eq h with ⟨kind, -, hcause⟩ | ⟨hnone, -⟩
    · obtain ⟨-, houtcome⟩ := hcause.step hs
      obtain rfl := StepOutcome.fault.inj (hfault.symm.trans houtcome)
      exact ⟨rfl, hcause⟩
    · exact absurd hfault (hnone r)
  · obtain ⟨-, houtcome⟩ := State.FaultCause.step (kind := r.kind) hcause hs
    exact houtcome.trans (congrArg _ hr.symm)

/-- Settles O56, by the two cases of a Step; a fault that was raised is passed over or halts the core. -/
theorem faultingStepIsPrecise : Obligations.FaultingStepIsPrecise := by
  intro s t h
  rcases coreStep_faultCause_or_latch_eq h with ⟨kind, hs, hcause⟩ | ⟨hnone, hlatch⟩
  · obtain ⟨hstep, houtcome⟩ := hcause.step hs
    obtain rfl := Host.Outcome.next.inj (hstep.symm.trans h)
    refine ⟨fun r hfault => ?_, fun hnone => absurd houtcome (hnone _)⟩
    obtain rfl := StepOutcome.fault.inj (hfault.symm.trans houtcome)
    refine ⟨s.raise_latch kind _, rfl, rfl, ?_⟩
    rw [State.raise_latch]
    split
    next hskip => exact State.raise_passedOver _ hskip
    next hhalt => exact State.raise_halting _ hhalt
  · exact ⟨fun r hfault => absurd hfault (hnone r), fun _ => hlatch⟩

/-- Settles O57: taking the event from the queue touches neither the latch nor the halt. -/
theorem onlyResetClearsLatch : Obligations.OnlyResetClearsLatch :=
  fun s _ h hreset => perform_keeps_latch (s := s.takeEvent) hreset h

/-- Settles O2: taking the event from the queue does not set the core going. -/
theorem haltedStepChangesNothing : Obligations.HaltedStepChangesNothing := by
  intro s he hhalted
  rw [step_eq, nextResult, he]
  exact ⟨coreStep_halted s.takeEvent hhalted, congrArg _ (stepOutcome_halted s.takeEvent hhalted)⟩

end Sys2Proof.Machine
end

section
/-! The host's events `Tick` and `KeyEvent` (R185, R189). -/

namespace Sys2Proof.Machine

/-- Counting down stops at 0, as subtraction on numbers does (R184). -/
theorem countDown_toNat (b : Byte) : (countDown b).toNat = b.toNat - 1 := by
  unfold countDown
  split
  next hzero => rw [hzero]; rfl
  next hpos => bv_omega

/-- Settles O42: the two timers, each by `countDown_toNat`. -/
theorem tickCountsTimersDown : Obligations.TickCountsTimersDown := by
  intro s he
  rw [step_eq, nextResult, he]
  exact ⟨s.takeEvent.tick, rfl, rfl, rfl, countDown_toNat s.dt, countDown_toNat s.st⟩

/-- Settles O43: a read of the latch after one key was set. -/
theorem keyEventSetsOneKey : Obligations.KeyEventSetsOneKey := by
  intro s k pressed he
  rw [step_eq, nextResult, he]
  exact ⟨s.takeEvent.keyEvent k pressed, rfl, rfl, rfl, fun j => s.keys.pressed_set k j pressed⟩

end Sys2Proof.Machine
end

section
/-! Reset and the ends of a run (spec/70_reset_and_hazards.md): the event `Reset`, the first Step with no program loaded,
and the jump to itself at the normal end of a run. -/

namespace Sys2Proof.Machine

/-! ### The word of a jump to itself (R213 (b)) -/

/-- An address of 12 bits joined to the pattern of jump is the word that jumps to it (R62, R64). -/
theorem jumpPattern_or_address {a : Word} (ha : a.toNat ≤ 0x0FFF) : 0x1000#16 ||| a = encodeA 0x1#4 (fieldNNN a) := by
  have haddress : a = encodeA 0#4 (fieldNNN a) := by
    apply BitVec.eq_of_toNat_eq
    rw [encodeA_toNat, fieldNNN_toNat, BitVec.toNat_zero]
    omega
  exact or_eq_encodeA rfl haddress

/-- At a normal end the core is about to fetch a jump, and its address field is `pc`. -/
theorem State.endedNormally.fetches_jump {s : State} (h : s.endedNormally) :
    s.fetches ∧ decode s.fetchWord = .op (.jump (fieldNNN s.pc)) ∧ s.pc.toNat = (fieldNNN s.pc).toNat := by
  obtain ⟨hmode, hhalted, hpc, hword⟩ := h
  refine ⟨⟨hhalted, hmode⟩, ?_, ?_⟩
  · rw [hword, jumpPattern_or_address hpc]
    exact decodeEncodeRoundTrip (.jump (fieldNNN s.pc))
  · rw [fieldNNN_toNat]
    omega

/-! ### The word at `pc` after reset (R25) -/

/-- With no program loaded, the two bytes from 0x200 are zero (D19). -/
theorem State.fetchWord_reset : State.reset.fetchWord = 0x0000#16 := by decide

/-! ### The statements -/

/-- Settles O58: the Step runs the jump that was fetched (`stepRunsDecodedInstruction`), and a jump to `pc` changes
nothing (`jumpSetsPc`). -/
theorem jumpToSelfIsAnEnd : Obligations.JumpToSelfIsAnEnd := by
  intro s hend he
  obtain ⟨hfetches, hdecode, hpc⟩ := hend.fetches_jump
  obtain ⟨-, houtcome, -, hself⟩ := jumpSetsPc (fieldNNN s.pc) s.takeEvent
  obtain ⟨hstep, hresult⟩ := stepRunsDecodedInstruction s _ he hfetches hdecode
  exact ⟨hstep.trans (hself hpc), hend, hresult.trans (congrArg _ houtcome)⟩

/-- Settles O14: taking the event from the queue is all that happens before the reset. -/
theorem resetEventRestoresReset : Obligations.ResetEventRestoresReset := by
  intro s he
  rw [step_eq, nextResult, he]
  exact ⟨s.takeEvent.resetEvent, rfl, rfl, rfl⟩

/-- Settles O15: memory after reset holds the word 0x0000 at `pc`, which is no instruction
(`unrecognizedWordIsReported`), and nothing is latched before it. -/
theorem firstStepWithoutProgramFaults : Obligations.FirstStepWithoutProgramFaults := by
  intro p
  have hword : State.fetchWord { State.reset with params := p } = 0x0000#16 := State.fetchWord_reset
  have hdecode : decode (State.fetchWord { State.reset with params := p }) = .unrecognized := by rw [hword]; rfl
  obtain ⟨t, hstep, hresult, hlatch, -⟩ :=
    unrecognizedWordIsReported { State.reset with params := p } rfl ⟨rfl, rfl⟩ hdecode
  rw [hword] at hresult hlatch
  exact ⟨t, hstep, hresult, hlatch⟩

end Sys2Proof.Machine
end
